-- ==== Sys2Proof/Word.lean ====
section
/-! DEFINITION. The words of the block: bytes, bus addresses and 16-bit data (R5, R7, R8 of 00_scope.md). -/

namespace Sys2Proof

/-- A byte, BYTE_W = 8 bits (R5). -/
abbrev Byte := BitVec 8

/-- A bus address, ADDR_W = 16 bits (R5). -/
abbrev Addr := BitVec 16

/-- A 16-bit word: the data field of a request or a response (R80, R83). -/
abbrev Half := BitVec 16

end Sys2Proof
end

