-- ==== Sys2Proof/Config.lean ====
section
/-! DEFINITION. The parameters of the block: those the document fixes (R5), those the spec decides (R6), and the one free
value, the answer of a serial stub that is not the reference store (R33). -/

namespace Sys2Proof.Config

/-- CYCLES_PER_LINE (R5). -/
@[simp] def cyclesPerLine : Nat := 114

/-- LINES_PER_FRAME (R5). -/
@[simp] def linesPerFrame : Nat := 154

/-- VISIBLE_LINES: the lines 0..143 (R5). -/
@[simp] def visibleLines : Nat := 144

/-- VBLANK_LINE (R5). -/
@[simp] def vblankLine : Nat := 144

/-- FB_W (R5). -/
@[simp] def fbWidth : Nat := 160

/-- FB_H (R5). -/
@[simp] def fbHeight : Nat := 144

/-- Bytes per pixel: three equal channels (R29). -/
@[simp] def channels : Nat := 3

/-- FB_BYTES = 160 x 144 x 3 (R5). -/
@[simp] def fbBytes : Nat := 69120

/-- TILE_BYTES (R5). -/
@[simp] def tileBytes : Nat := 16

/-- MAP_STRIDE, tiles per row of the tile map (R5). -/
@[simp] def mapStride : Nat := 32

/-- ROM_SIZE (R6, D9). -/
@[simp] def romSize : Nat := 0x8000

/-- VRAM_SIZE (R5). -/
@[simp] def vramSize : Nat := 0x2000

/-- WRAM_SIZE (R6, D6). PRESUMED: the spec takes it from general knowledge; unsafe where the alias E000 = C000 is used (log 11). -/
@[simp] def wramSize : Nat := 0x2000

/-- OAM_SIZE (R5). -/
@[simp] def oamSize : Nat := 160

/-- ZRAM_SIZE (R6, D7). -/
@[simp] def zramSize : Nat := 0x80

/-- The mask of VRAM, and of WRAM, whose size is the same (R6, R50). -/
def storeMask : Addr := 0x1FFF

/-- OAM_MASK (R6, D8). -/
def oamMask : Addr := 0x00FF

/-- The mask of ZRAM (R6, D7). -/
def zramMask : Addr := 0x007F

/-- OPEN_BUS, what an unmapped address reads as (R6, R124, D10). DESIGN CHOICE of the spec (D10): statements use the name,
never the value (log 10). -/
def openBus : Byte := 0xFF

/-- CHAN_CAP, the capacity of the display channel (R6, R200, D23). DESIGN CHOICE of the spec (log 12). -/
@[simp] def chanCap : Nat := 1

/-- What every byte of every store holds at reset (R42, D19), and what a cell that no memory list mentions reads as.
DESIGN CHOICE of the spec, unsafe (log 13). -/
def resetByte : Byte := 0x00

/-- FB_FILL, the byte of a fresh frame buffer (R6, R29, D20): the same value as every store's. -/
abbrev fbFill : Byte := resetByte

end Sys2Proof.Config

namespace Sys2Proof

/-- The two registers behind the serial region: SB at FF01, SC at FF02 (R33). -/
inductive SerialReg where
  | sb
  | sc
  deriving DecidableEq, Repr

/-- One access that reached the serial stub (R121). -/
inductive SerialAccess where
  /-- `serial.read(addr)`. -/
  | read (r : SerialReg)
  /-- `serial.write(addr, v)`. -/
  | write (r : SerialReg) (v : Byte)
  deriving DecidableEq, Repr

/-- FREE VALUE (log 9): what the serial stub number `id`, which is not the reference store, answers to a read of `r` after the
accesses `history` (newest first). The spec leaves `serial` open (R33, D21), so it has no body. -/
opaque Config.serialAnswer (id : Nat) (history : List SerialAccess) (r : SerialReg) : Byte

end Sys2Proof
end

