-- ==== Sys2Proof/Syntax.lean ====
section
/-! DEFINITION. The operations of the block: one constructor per row of the opcode table (R100 of 30_encoding.md), and the
request words they are carried by (R80, R85). -/

namespace Sys2Proof

/-- The regions of the bus address space (R50). -/
inductive Region where
  | rom
  | vram
  | cram
  | wram
  | oam
  | serial
  | display
  | zram
  | unmapped
  deriving DecidableEq, Repr

/-- Which of the two byte primitives of R114 a row is used for: `READ1(a)` or `WRITE1(a, v)`. -/
inductive ByteAccess where
  | read
  | write (v : Byte)
  deriving DecidableEq, Repr

/-- One operation: a processor-port operation (R82), a display-port operation (R86), the byte access of one address block
(R87) or the byte access of one display register (R88). -/
inductive Instr where
  /-- `RDB addr` (R110). -/
  | rdb (addr : Addr)
  /-- `WRB addr, v` (R111). -/
  | wrb (addr : Addr) (v : Byte)
  /-- `RDW addr` (R112). -/
  | rdw (addr : Addr)
  /-- `WRW addr, w` (R113). -/
  | wrw (addr : Addr) (w : Half)
  /-- `ADV n` (R160). The count is a natural number, at most 65535 on the port (R90; log 17). -/
  | adv (n : Nat)
  /-- `IFR` (R152). -/
  | ifr
  /-- `IFW v` (R153). -/
  | ifw (v : Byte)
  /-- The reserved operation code 7 (R92). -/
  | reservedOp7
  /-- `TAKE` (R195). -/
  | take
  /-- `DISC` (R196). -/
  | disc
  /-- Block 0000/8000 of the ROM region (R116). -/
  | rom0000 (addr : Addr) (acc : ByteAccess)
  /-- Block 8000/E000 of the VRAM region (R117). -/
  | vram8000 (addr : Addr) (acc : ByteAccess)
  /-- Block A000/E000 of the CRAM region (R118). -/
  | cramA000 (addr : Addr) (acc : ByteAccess)
  /-- Block C000/E000 of the WRAM region (R119). -/
  | wramC000 (addr : Addr) (acc : ByteAccess)
  /-- Block E000/F000 of the WRAM region (R119). -/
  | wramE000 (addr : Addr) (acc : ByteAccess)
  /-- Block F000/F800 of the WRAM region (R119). -/
  | wramF000 (addr : Addr) (acc : ByteAccess)
  /-- Block F800/FC00 of the WRAM region (R119). -/
  | wramF800 (addr : Addr) (acc : ByteAccess)
  /-- Block FC00/FE00 of the WRAM region (R119). -/
  | wramFC00 (addr : Addr) (acc : ByteAccess)
  /-- Block FE00/FF80 of the OAM region (R120). -/
  | oamFE00 (addr : Addr) (acc : ByteAccess)
  /-- Block FE80/FFE0 of the OAM region (R120). -/
  | oamFE80 (addr : Addr) (acc : ByteAccess)
  /-- Block FEA0/FFE0 of the UNMAPPED region (R124). -/
  | unmappedFEA0 (addr : Addr) (acc : ByteAccess)
  /-- Block FEC0/FFC0 of the UNMAPPED region (R124). -/
  | unmappedFEC0 (addr : Addr) (acc : ByteAccess)
  /-- Block FF00/FFFF of the UNMAPPED region (R124). -/
  | unmappedFF00 (acc : ByteAccess)
  /-- Block FF01/FFFF of the SERIAL region (R121). -/
  | serialFF01 (acc : ByteAccess)
  /-- Block FF02/FFFF of the SERIAL region (R121). -/
  | serialFF02 (acc : ByteAccess)
  /-- Block FF03/FFFF of the UNMAPPED region (R124). -/
  | unmappedFF03 (acc : ByteAccess)
  /-- Block FF04/FFFC of the UNMAPPED region (R124). -/
  | unmappedFF04 (addr : Addr) (acc : ByteAccess)
  /-- Block FF08/FFF8 of the UNMAPPED region (R124). -/
  | unmappedFF08 (addr : Addr) (acc : ByteAccess)
  /-- Block FF10/FFF0 of the UNMAPPED region (R124). -/
  | unmappedFF10 (addr : Addr) (acc : ByteAccess)
  /-- Block FF20/FFE0 of the UNMAPPED region (R124). -/
  | unmappedFF20 (addr : Addr) (acc : ByteAccess)
  /-- Block FF40/FFF8 of the DISPLAY region (R122). -/
  | displayFF40 (addr : Addr) (acc : ByteAccess)
  /-- Block FF48/FFFC of the DISPLAY region (R122). -/
  | displayFF48 (addr : Addr) (acc : ByteAccess)
  /-- Block FF4C/FFFC of the UNMAPPED region (R124). -/
  | unmappedFF4C (addr : Addr) (acc : ByteAccess)
  /-- Block FF50/FFF0 of the UNMAPPED region (R124). -/
  | unmappedFF50 (addr : Addr) (acc : ByteAccess)
  /-- Block FF60/FFE0 of the UNMAPPED region (R124). -/
  | unmappedFF60 (addr : Addr) (acc : ByteAccess)
  /-- Block FF80/FF80 of the ZRAM region (R123). -/
  | zramFF80 (addr : Addr) (acc : ByteAccess)
  /-- Display register address FF40, LCDC (R140). -/
  | regFF40 (acc : ByteAccess)
  /-- Display register address FF41, STAT (R141). -/
  | regFF41 (acc : ByteAccess)
  /-- Display register address FF42, SCY (R142). -/
  | regFF42 (acc : ByteAccess)
  /-- Display register address FF43, SCX (R143). -/
  | regFF43 (acc : ByteAccess)
  /-- Display register address FF44, LY (R144). -/
  | regFF44 (acc : ByteAccess)
  /-- Display register address FF45, no register (R145). -/
  | regFF45 (acc : ByteAccess)
  /-- Display register address FF46, no register (R146). -/
  | regFF46 (acc : ByteAccess)
  /-- Display register address FF47, BGP (R147). -/
  | regFF47 (acc : ByteAccess)
  /-- Display register address FF48, OBP0 (R148). -/
  | regFF48 (acc : ByteAccess)
  /-- Display register address FF49, OBP1 (R149). -/
  | regFF49 (acc : ByteAccess)
  /-- Display register address FF4A, WY (R150). -/
  | regFF4A (acc : ByteAccess)
  /-- Display register address FF4B, WX (R151). -/
  | regFF4B (acc : ByteAccess)
  deriving DecidableEq, Repr

/-- The words an operation is presented as, one form per format of the opcode table (R100). -/
inductive Request where
  /-- The 35-bit request word of the processor port (R80). -/
  | req35 (w : BitVec 35)
  /-- The 1-bit word of the display port (R85). -/
  | dreq1 (w : BitVec 1)
  /-- A byte access presented to the address decode: address in bits 15:0, write data in bits 23:16, write flag in bit 24.
  DESIGN CHOICE: the table gives the address bits only (log 6). -/
  | addr16 (w : BitVec 25)
  /-- A byte access presented to the register decode, laid out as `addr16` (log 6). -/
  | reg16 (w : BitVec 25)
  deriving DecidableEq, Repr

end Sys2Proof
end

