-- ==== Sys2Proof/WellFormed.lean ====
section
/-! DEFINITION. Which terms of Instr stand for something the port can carry: a count of at most 65535 (R90), and an address
inside the row's own block (R87). -/

namespace Sys2Proof

/-- An address is in a block when `A & mask = match` (R87). -/
def inBlock (a mask pattern : Addr) : Bool := a &&& mask == pattern

/-- Well-formedness of an operation: see the file's header. -/
def Instr.wellFormed : Instr → Bool
  | .rdb _ => true
  | .wrb _ _ => true
  | .rdw _ => true
  | .wrw _ _ => true
  | .adv n => n < 65536
  | .ifr => true
  | .ifw _ => true
  | .reservedOp7 => true
  | .take => true
  | .disc => true
  | .rom0000 a _ => inBlock a 0x8000 0x0000
  | .vram8000 a _ => inBlock a 0xE000 0x8000
  | .cramA000 a _ => inBlock a 0xE000 0xA000
  | .wramC000 a _ => inBlock a 0xE000 0xC000
  | .wramE000 a _ => inBlock a 0xF000 0xE000
  | .wramF000 a _ => inBlock a 0xF800 0xF000
  | .wramF800 a _ => inBlock a 0xFC00 0xF800
  | .wramFC00 a _ => inBlock a 0xFE00 0xFC00
  | .oamFE00 a _ => inBlock a 0xFF80 0xFE00
  | .oamFE80 a _ => inBlock a 0xFFE0 0xFE80
  | .unmappedFEA0 a _ => inBlock a 0xFFE0 0xFEA0
  | .unmappedFEC0 a _ => inBlock a 0xFFC0 0xFEC0
  | .unmappedFF00 _ => true
  | .serialFF01 _ => true
  | .serialFF02 _ => true
  | .unmappedFF03 _ => true
  | .unmappedFF04 a _ => inBlock a 0xFFFC 0xFF04
  | .unmappedFF08 a _ => inBlock a 0xFFF8 0xFF08
  | .unmappedFF10 a _ => inBlock a 0xFFF0 0xFF10
  | .unmappedFF20 a _ => inBlock a 0xFFE0 0xFF20
  | .displayFF40 a _ => inBlock a 0xFFF8 0xFF40
  | .displayFF48 a _ => inBlock a 0xFFFC 0xFF48
  | .unmappedFF4C a _ => inBlock a 0xFFFC 0xFF4C
  | .unmappedFF50 a _ => inBlock a 0xFFF0 0xFF50
  | .unmappedFF60 a _ => inBlock a 0xFFE0 0xFF60
  | .zramFF80 a _ => inBlock a 0xFF80 0xFF80
  | .regFF40 _ => true
  | .regFF41 _ => true
  | .regFF42 _ => true
  | .regFF43 _ => true
  | .regFF44 _ => true
  | .regFF45 _ => true
  | .regFF46 _ => true
  | .regFF47 _ => true
  | .regFF48 _ => true
  | .regFF49 _ => true
  | .regFF4A _ => true
  | .regFF4B _ => true

end Sys2Proof
end

