-- ==== Sys2Proof/Decode.lean ====
section
/-! DEFINITION. The decoder of the four formats of the opcode table (R80 to R88, R100), total on any bits and rejecting by name,
and after it the encoder written from the same tables. -/

namespace Sys2Proof

/-- Why a word stands for no operation. -/
inductive Reject where
  /-- An ADDR16 word whose address is in no block: it does not happen (R94), the 26 blocks cover the space. -/
  | noAddressBlock
  /-- A REG16 word whose address is none of FF40..FF4B: the register accessors are not reachable with it (R154). -/
  | noDisplayRegister
  deriving DecidableEq, Repr

/-! ### Decoding -/

/-- The operation code, bits 34:32 (R80). -/
def opField (w : BitVec 35) : BitVec 3 := w.extractLsb' 32 3

/-- The address field, bits 31:16 (R80). -/
def addrField (w : BitVec 35) : Addr := w.extractLsb' 16 16

/-- The data field, bits 15:0 (R80). -/
def dataField (w : BitVec 35) : Half := w.extractLsb' 0 16

/-- A processor-port word, by its operation code (R82); WRB and IFW use data[7:0] only (R84). -/
def decodeReq (w : BitVec 35) : Instr :=
  match (opField w).toNat with
  | 0 => .rdb (addrField w)
  | 1 => .wrb (addrField w) ((dataField w).extractLsb' 0 8)
  | 2 => .rdw (addrField w)
  | 3 => .wrw (addrField w) (dataField w)
  | 4 => .adv (dataField w).toNat
  | 5 => .ifr
  | 6 => .ifw ((dataField w).extractLsb' 0 8)
  | _ => .reservedOp7

/-- A display-port word (R86). -/
def decodeDreq (w : BitVec 1) : Instr := if w = 0 then .take else .disc

/-- The address of a byte access word (log 6). -/
def accessAddr (w : BitVec 25) : Addr := w.extractLsb' 0 16

/-- The byte access of a byte access word: bit 24 says write, bits 23:16 are the byte written (log 6). -/
def accessKind (w : BitVec 25) : ByteAccess :=
  if w.extractLsb' 24 1 = 1 then .write (w.extractLsb' 16 8) else .read

/-- One ADDR16 row of the opcode table: the block `A & mask = match`, its region and the operation it is (R87). -/
structure AddrRow where
  mask : Addr
  pattern : Addr
  region : Region
  op : Addr → ByteAccess → Instr

/-- One REG16 row of the opcode table: the exact address of a display register (R88). -/
structure RegRow where
  addr : Addr
  op : ByteAccess → Instr

/-- The ADDR16 rows below FF00 (R87). -/
def addrRowsLow : List AddrRow :=
  [ ⟨0x8000, 0x0000, .rom, .rom0000⟩,
    ⟨0xE000, 0x8000, .vram, .vram8000⟩,
    ⟨0xE000, 0xA000, .cram, .cramA000⟩,
    ⟨0xE000, 0xC000, .wram, .wramC000⟩,
    ⟨0xF000, 0xE000, .wram, .wramE000⟩,
    ⟨0xF800, 0xF000, .wram, .wramF000⟩,
    ⟨0xFC00, 0xF800, .wram, .wramF800⟩,
    ⟨0xFE00, 0xFC00, .wram, .wramFC00⟩,
    ⟨0xFF80, 0xFE00, .oam, .oamFE00⟩,
    ⟨0xFFE0, 0xFE80, .oam, .oamFE80⟩,
    ⟨0xFFE0, 0xFEA0, .unmapped, .unmappedFEA0⟩,
    ⟨0xFFC0, 0xFEC0, .unmapped, .unmappedFEC0⟩ ]

/-- The ADDR16 rows from FF00 up (R87). -/
def addrRowsHigh : List AddrRow :=
  [ ⟨0xFFFF, 0xFF00, .unmapped, fun _ acc => .unmappedFF00 acc⟩,
    ⟨0xFFFF, 0xFF01, .serial, fun _ acc => .serialFF01 acc⟩,
    ⟨0xFFFF, 0xFF02, .serial, fun _ acc => .serialFF02 acc⟩,
    ⟨0xFFFF, 0xFF03, .unmapped, fun _ acc => .unmappedFF03 acc⟩,
    ⟨0xFFFC, 0xFF04, .unmapped, .unmappedFF04⟩,
    ⟨0xFFF8, 0xFF08, .unmapped, .unmappedFF08⟩,
    ⟨0xFFF0, 0xFF10, .unmapped, .unmappedFF10⟩,
    ⟨0xFFE0, 0xFF20, .unmapped, .unmappedFF20⟩,
    ⟨0xFFF8, 0xFF40, .display, .displayFF40⟩,
    ⟨0xFFFC, 0xFF48, .display, .displayFF48⟩,
    ⟨0xFFFC, 0xFF4C, .unmapped, .unmappedFF4C⟩,
    ⟨0xFFF0, 0xFF50, .unmapped, .unmappedFF50⟩,
    ⟨0xFFE0, 0xFF60, .unmapped, .unmappedFF60⟩,
    ⟨0xFF80, 0xFF80, .zram, .zramFF80⟩ ]

/-- The 26 blocks (R87). -/
def addrRows : List AddrRow := addrRowsLow ++ addrRowsHigh

/-- The 12 register rows (R88). -/
def regRows : List RegRow :=
  [ ⟨0xFF40, .regFF40⟩,
    ⟨0xFF41, .regFF41⟩,
    ⟨0xFF42, .regFF42⟩,
    ⟨0xFF43, .regFF43⟩,
    ⟨0xFF44, .regFF44⟩,
    ⟨0xFF45, .regFF45⟩,
    ⟨0xFF46, .regFF46⟩,
    ⟨0xFF47, .regFF47⟩,
    ⟨0xFF48, .regFF48⟩,
    ⟨0xFF49, .regFF49⟩,
    ⟨0xFF4A, .regFF4A⟩,
    ⟨0xFF4B, .regFF4B⟩ ]

/-- The row an address falls in (R87). -/
def findAddrRow (a : Addr) : Option AddrRow := addrRows.find? fun r => inBlock a r.mask r.pattern

/-- The register row an address selects (R88). -/
def findRegRow (a : Addr) : Option RegRow := regRows.find? fun r => a == r.addr

/-- An ADDR16 word (R87, R100). -/
def decodeAddr (w : BitVec 25) : Except Reject Instr :=
  match findAddrRow (accessAddr w) with
  | some r => .ok (r.op (accessAddr w) (accessKind w))
  | none => .error .noAddressBlock

/-- A REG16 word (R88, R100). -/
def decodeReg (w : BitVec 25) : Except Reject Instr :=
  match findRegRow (accessAddr w) with
  | some r => .ok (r.op (accessKind w))
  | none => .error .noDisplayRegister

/-- The operation a request word stands for (R100). -/
def decode : Request → Except Reject Instr
  | .req35 w => .ok (decodeReq w)
  | .dreq1 w => .ok (decodeDreq w)
  | .addr16 w => decodeAddr w
  | .reg16 w => decodeReg w

/-! ### Encoding -/

/-- A processor-port word from its fields (R80); ignored fields are given as zero, the canonical encoding (R84). -/
def reqWord (op : BitVec 3) (addr : Addr) (data : Half) : BitVec 35 := op ++ addr ++ data

/-- A byte access word from its fields (log 6). -/
def accessWord (a : Addr) : ByteAccess → BitVec 25
  | .read => 0#1 ++ 0#8 ++ a
  | .write v => 1#1 ++ v ++ a

/-- The canonical word of an operation (R96; log 6 for the two inner formats). -/
def encode : Instr → Request
  | .rdb a => .req35 (reqWord 0 a 0)
  | .wrb a v => .req35 (reqWord 1 a (0#8 ++ v))
  | .rdw a => .req35 (reqWord 2 a 0)
  | .wrw a w => .req35 (reqWord 3 a w)
  | .adv n => .req35 (reqWord 4 0 (BitVec.ofNat 16 n))
  | .ifr => .req35 (reqWord 5 0 0)
  | .ifw v => .req35 (reqWord 6 0 (0#8 ++ v))
  | .reservedOp7 => .req35 (reqWord 7 0 0)
  | .take => .dreq1 0
  | .disc => .dreq1 1
  | .rom0000 a acc => .addr16 (accessWord a acc)
  | .vram8000 a acc => .addr16 (accessWord a acc)
  | .cramA000 a acc => .addr16 (accessWord a acc)
  | .wramC000 a acc => .addr16 (accessWord a acc)
  | .wramE000 a acc => .addr16 (accessWord a acc)
  | .wramF000 a acc => .addr16 (accessWord a acc)
  | .wramF800 a acc => .addr16 (accessWord a acc)
  | .wramFC00 a acc => .addr16 (accessWord a acc)
  | .oamFE00 a acc => .addr16 (accessWord a acc)
  | .oamFE80 a acc => .addr16 (accessWord a acc)
  | .unmappedFEA0 a acc => .addr16 (accessWord a acc)
  | .unmappedFEC0 a acc => .addr16 (accessWord a acc)
  | .unmappedFF00 acc => .addr16 (accessWord 0xFF00 acc)
  | .serialFF01 acc => .addr16 (accessWord 0xFF01 acc)
  | .serialFF02 acc => .addr16 (accessWord 0xFF02 acc)
  | .unmappedFF03 acc => .addr16 (accessWord 0xFF03 acc)
  | .unmappedFF04 a acc => .addr16 (accessWord a acc)
  | .unmappedFF08 a acc => .addr16 (accessWord a acc)
  | .unmappedFF10 a acc => .addr16 (accessWord a acc)
  | .unmappedFF20 a acc => .addr16 (accessWord a acc)
  | .displayFF40 a acc => .addr16 (accessWord a acc)
  | .displayFF48 a acc => .addr16 (accessWord a acc)
  | .unmappedFF4C a acc => .addr16 (accessWord a acc)
  | .unmappedFF50 a acc => .addr16 (accessWord a acc)
  | .unmappedFF60 a acc => .addr16 (accessWord a acc)
  | .zramFF80 a acc => .addr16 (accessWord a acc)
  | .regFF40 acc => .reg16 (accessWord 0xFF40 acc)
  | .regFF41 acc => .reg16 (accessWord 0xFF41 acc)
  | .regFF42 acc => .reg16 (accessWord 0xFF42 acc)
  | .regFF43 acc => .reg16 (accessWord 0xFF43 acc)
  | .regFF44 acc => .reg16 (accessWord 0xFF44 acc)
  | .regFF45 acc => .reg16 (accessWord 0xFF45 acc)
  | .regFF46 acc => .reg16 (accessWord 0xFF46 acc)
  | .regFF47 acc => .reg16 (accessWord 0xFF47 acc)
  | .regFF48 acc => .reg16 (accessWord 0xFF48 acc)
  | .regFF49 acc => .reg16 (accessWord 0xFF49 acc)
  | .regFF4A acc => .reg16 (accessWord 0xFF4A acc)
  | .regFF4B acc => .reg16 (accessWord 0xFF4B acc)

/-! ### The opcode table's own numbering -/

/-- The request that a table word of `nbits` bits is (bits numbered as the table numbers them): up to 8 bits a display-port
word, up to 32 bits a byte access, more a processor-port word. DESIGN CHOICE (log 7): a byte access word inside FF40..FF4B is
taken to the register decode, the last stage of R100, since the ADDR16 and the REG16 rows overlap there. -/
def tableRequest (nbits w : Nat) : Request :=
  if nbits ≤ 8 then .dreq1 (BitVec.ofNat 1 w)
  else if nbits ≤ 32 then
    let word := BitVec.ofNat 25 (w % 2 ^ nbits)
    if (findRegRow (accessAddr word)).isSome then .reg16 word else .addr16 word
  else .req35 (BitVec.ofNat 35 w)

/-- The operation the decoder reads from a table word. -/
def decodeTableWord (nbits w : Nat) : Option Instr :=
  match decode (tableRequest nbits w) with
  | .ok i => some i
  | .error _ => none

end Sys2Proof
end

