-- ==== Sys2Proof/Machine/State.lean ====
section
/-! DEFINITION. The state of the block (10_state.md), the responses it gives, and the reasons a step can stop. -/

namespace Sys2Proof.Machine

/-- PHASE (R36). -/
inductive Phase where
  | reset
  | run
  | failed
  deriving DecidableEq, Repr

/-- The two states of the scanline state machine, a function of LY (R24). -/
inductive EngineState where
  | scanning
  | vblank
  deriving DecidableEq, Repr

/-- A palette map: one intensity per color id (R25, R26). -/
structure PalMap where
  c0 : Byte
  c1 : Byte
  c2 : Byte
  c3 : Byte
  deriving DecidableEq, Repr

/-- The statuses that are not errors: OK, UNMAPPED, FRAME_DROPPED (R205). -/
inductive DoneStatus where
  | ok
  | unmapped
  | frameDropped
  deriving DecidableEq, Repr

/-- The error statuses: ERR_UNIMPL, ERR_BADREG, ERR_BADOP (R205). -/
inductive ErrStatus where
  | unimpl
  | badreg
  | badop
  deriving DecidableEq, Repr

/-- A processor-port response (R83). An error has no data: its data field carries no information (R83, D11; log 14). -/
inductive Resp where
  | done (st : DoneStatus) (data : Half)
  | error (e : ErrStatus)
  deriving DecidableEq, Repr

/-- What READ1 returns (R114): a status that is no error with its byte, or an error without one (R115). -/
inductive ReadRes where
  | value (st : DoneStatus) (b : Byte)
  | error (e : ErrStatus)
  deriving DecidableEq, Repr

/-- What WRITE1 returns (R114). -/
inductive WriteRes where
  | done (st : DoneStatus)
  | error (e : ErrStatus)
  deriving DecidableEq, Repr

/-- What a byte primitive that was run by itself returned (R114; log 8). -/
inductive ByteRes where
  | read (r : ReadRes)
  | wrote (r : WriteRes)
  deriving DecidableEq, Repr

/-- A store: index and byte pairs, indexes strictly rising, none holding what an unlisted index reads as
(`Memory.wf` in Machine/Ops.lean). -/
abbrev Memory := List Host.Cell

/-- A completed frame: the content of FB at a hand-off, an immutable value (R34, R197; log 16). -/
abbrev Frame := Memory

/-- The byte stores that the bus reaches (R37). -/
inductive Store where
  | rom
  | vram
  | wram
  | oam
  | zram
  deriving DecidableEq, Repr

/-- One cell of a store. -/
structure Cell where
  store : Store
  index : Nat
  deriving DecidableEq, Repr

/-- A display-port response (R85). -/
inductive DispResp where
  | frame (f : Frame)
  | empty
  | done
  | closed
  deriving DecidableEq, Repr

/-- An entry of the event history (R43). -/
inductive Event where
  | deliver (f : Frame)
  | drop
  deriving DecidableEq, Repr

/-- The serial stub (R33): the reference two-byte store, or another stub known only by its number and by the accesses that
reached it, newest first (log 9). -/
inductive SerialStub where
  | reference (sb sc : Byte)
  | other (id : Nat) (history : List SerialAccess)
  deriving DecidableEq, Repr

/-- Which serial stub the bus is built with: an argument of the model, given at reset (R33, R40, R230; log 9, 27). -/
inductive SerialKind where
  | reference
  | other (id : Nat)
  deriving DecidableEq, Repr

/-- An ADV in progress, held at a hand-off (R192). What is left of the operation is CLK and its local `dropped` (R160; log 18). -/
structure HeldAdv where
  dropped : Bool
  deriving DecidableEq, Repr

/-- What the outside does next (log 2, 3). -/
inductive Input where
  /-- A request on a port (R80, R85), or a byte access presented to the inner decode stages (log 6). -/
  | request (r : Request)
  /-- No request: the held hand-off proceeds here if its hold is lifted (R192, R201). -/
  | proceed
  /-- Reset with a cartridge source, which yields an image or none, and with a serial stub (R33, R40, R230, R234; log 27). -/
  | reset (source : Option (List Byte)) (serial : SerialKind)
  deriving DecidableEq, Repr

/-- The whole state: 10_state.md, in the order of its overview, then the operation in progress and the model's own fields. -/
structure State where
  /-- LCDC, FF40 (R12). -/
  lcdc : Byte
  /-- STAT, FF41 (R13). -/
  stat : Byte
  /-- SCY, FF42 (R14). -/
  scy : Byte
  /-- SCX, FF43 (R15). -/
  scx : Byte
  /-- LY, FF44 (R16). -/
  ly : Byte
  /-- BGP, FF47 (R17). -/
  bgp : Byte
  /-- OBP0, FF48 (R18). -/
  obp0 : Byte
  /-- OBP1, FF49 (R19). -/
  obp1 : Byte
  /-- WY, FF4A (R20). -/
  wy : Byte
  /-- WX, FF4B (R21). -/
  wx : Byte
  /-- IF, the interrupt flag byte (R22). -/
  ifl : Byte
  /-- CLK, the render clock (R23). -/
  clk : Nat
  /-- BGMAP (R25). -/
  bgmap : PalMap
  /-- OBMAP0 (R26). -/
  obmap0 : PalMap
  /-- OBMAP1 (R26). -/
  obmap1 : PalMap
  /-- VRAM (R27). -/
  vram : Memory
  /-- OAM (R28). -/
  oam : Memory
  /-- FB, the in-progress frame buffer (R29). -/
  fb : Memory
  /-- The ROM store (R30). -/
  rom : Memory
  /-- ROM_LEN (R30). -/
  romLen : Nat
  /-- WRAM (R31). -/
  wram : Memory
  /-- ZRAM (R32). -/
  zram : Memory
  /-- The serial stub (R33). -/
  serial : SerialStub
  /-- Q, the display channel (R34). -/
  queue : List Frame
  /-- CONNECTED (R35). -/
  connected : Bool
  /-- PHASE (R36). -/
  phase : Phase
  /-- The event history, oldest first (R43). -/
  events : List Event
  /-- The ADV in progress that holds at a hand-off (R81, R192). -/
  hold : Option HeldAdv
  /-- MODEL: the last processor-port response (R83; log 8). -/
  resp : Option Resp
  /-- MODEL: the last display-port response (R85; log 8). -/
  dresp : Option DispResp
  /-- MODEL: what the last byte primitive run by itself returned (log 8). -/
  byteRes : Option ByteRes
  /-- MODEL: what the outside does next, first entry first (log 2). -/
  inputs : List Input
  deriving DecidableEq, Repr

/-- The reasons a step has no next state. Both are safe: the block has no step there either (R225). -/
inductive Fault where
  /-- Raised by `fetch` for a request on either port in PHASE RESET or FAILED: it is not accepted and gets no response (R81,
  R85, R232). Safe. -/
  | notRunning
  /-- Raised by `fetch` for a processor-port request while an ADV holds on a full, connected channel (R81, R192). Safe. -/
  | portHeld
  deriving DecidableEq, Repr

/-- The reasons the model gives an input no meaning. -/
inductive Refusal where
  /-- Raised by `exec` for an operation without a meaning; no arm does so. Safe. -/
  | notModelled (mnemonic : String)
  /-- Raised by `fetch` for a word of the inner formats that is no row of the opcode table (R154). Safe. -/
  | undecodable (why : Reject)
  deriving DecidableEq, Repr

/-- What `fetch` makes of a state: an operation to run, a step that runs none, or no step. -/
inductive Fetched where
  | run (i : Instr) (s : State)
  | quiet (s : State)
  | stuck (f : Fault)
  | refused (r : Refusal)
  deriving DecidableEq, Repr

/-- The map of palette byte 0x00 (R25, R42). -/
def PalMap.white : PalMap := ⟨255, 255, 255, 255⟩

/-- The block right after a successful reset (R42, R233) over the empty image, which is no failure (R231; log 1), and with the
reference serial store (D21; log 9). `resetOver` is the reset over any image and with any stub. -/
def State.reset : State where
  lcdc := 0x00
  stat := 0x00
  scy := 0x00
  scx := 0x00
  ly := 0
  bgp := 0x00
  obp0 := 0x00
  obp1 := 0x00
  wy := 0x00
  wx := 0x00
  ifl := 0x00
  clk := 0
  bgmap := .white
  obmap0 := .white
  obmap1 := .white
  vram := []
  oam := []
  fb := []
  rom := []
  romLen := 0
  wram := []
  zram := []
  serial := .reference 0x00 0x00
  queue := []
  connected := true
  phase := .run
  events := []
  hold := none
  resp := none
  dresp := none
  byteRes := none
  inputs := []

end Sys2Proof.Machine
end

