-- ==== Sys2Proof/Machine/Flags.lean ====
section
/-! DEFINITION. Everything flag-like (R44): the LCDC fields with an effect, the interrupt flag byte, the status codes and the
merge of two statuses. -/

namespace Sys2Proof.Machine

/-! ### LCDC fields (R12) -/

/-- LCD_EN, LCDC bit 7. -/
def lcdEnabled (s : State) : Bool := s.lcdc.getLsbD 7

/-- TILE_SEL, LCDC bit 4: set selects base 0x8000 with an unsigned index (R179, D17; log 21). -/
def tileSelUnsigned (s : State) : Bool := s.lcdc.getLsbD 4

/-- MAP_SEL, LCDC bit 3: set selects the tile map at 0x9C00 (R178, D17; log 21). -/
def mapSelHigh (s : State) : Bool := s.lcdc.getLsbD 3

/-! ### The interrupt flag byte (R22) -/

/-- `IF <- IF | 0x01` (R162, R164). -/
def setVblank (flags : Byte) : Byte := flags ||| 0x01

/-- Whether the vertical-blank interrupt is pending: IF bit 0 (R22). -/
def vblankPending (s : State) : Bool := s.ifl.getLsbD 0

/-! ### Statuses (R205) -/

/-- The 3-bit code of a status that is no error (R205). -/
def DoneStatus.code : DoneStatus → BitVec 3
  | .ok => 0
  | .unmapped => 1
  | .frameDropped => 4

/-- The 3-bit code of an error status (R205). -/
def ErrStatus.code : ErrStatus → BitVec 3
  | .unimpl => 2
  | .badreg => 3
  | .badop => 5

/-- The status field of a response, RESP[18:16] (R83). -/
def Resp.code : Resp → BitVec 3
  | .done st _ => st.code
  | .error e => e.code

/-- The 19-bit response word {status, data} (R83); an error response has none, since its data carries no information (log 14). -/
def Resp.word : Resp → Option (BitVec 19)
  | .done st data => some (st.code ++ data)
  | .error _ => none

/-- The 2-bit status of a display-port response (R85). -/
def DispResp.code : DispResp → BitVec 2
  | .frame _ => 0
  | .empty => 1
  | .done => 2
  | .closed => 3

/-- The status of a word access neither of whose bytes erred: UNMAPPED when either byte was, else OK (R112, R113, R215b). -/
def mergeStatus (s0 s1 : DoneStatus) : DoneStatus :=
  if s0 = .unmapped ∨ s1 = .unmapped then .unmapped else .ok

/-- The status of an ADV that has finished (R160, R210). -/
def advStatus (dropped : Bool) : DoneStatus := if dropped then .frameDropped else .ok

end Sys2Proof.Machine
end

