-- ==== Sys2Proof/Machine/Operands.lean ====
section
/-! DEFINITION. How operands and addresses are taken apart: the bytes of a word (R89), the region of an address (R50), the index
into a store (R91), the register an address selects (R88, R121). -/

namespace Sys2Proof.Machine

/-! ### Words (R53, R89) -/

/-- `w[7:0]`. -/
def lowByte (w : Half) : Byte := w.extractLsb' 0 8

/-- `w[15:8]`. -/
def highByte (w : Half) : Byte := w.extractLsb' 8 8

/-- `{hi, lo}`. -/
def wordOf (hi lo : Byte) : Half := hi ++ lo

/-- `zext_16(b)`. -/
def zext (b : Byte) : Half := b.setWidth 16

/-- `(a + 1) mod 0x10000` (R68, D13). -/
def nextAddr (a : Addr) : Addr := a + 1

/-! ### Regions (R50) -/

/-- The table of R50, a row a range: its last address and its region. Each range begins where the one before ends. -/
def regionEnds : List (Nat × Region) :=
  [ (0x7FFF, .rom),
    (0x9FFF, .vram),
    (0xBFFF, .cram),
    (0xFDFF, .wram),
    (0xFE9F, .oam),
    (0xFEFF, .unmapped),
    (0xFF00, .unmapped),
    (0xFF02, .serial),
    (0xFF3F, .unmapped),
    (0xFF4B, .display),
    (0xFF7F, .unmapped) ]

/-- The region of the first range that reaches up to `n`, and ZRAM past the last one of the list. -/
def regionIn (n : Nat) : List (Nat × Region) → Region
  | [] => .zram
  | (last, r) :: rest => if n ≤ last then r else regionIn n rest

/-- The region of an address, by the ranges of R50. -/
def region (a : Addr) : Region := regionIn a.toNat regionEnds

/-! ### Store indexes (R50, R91) -/

/-- "direct index" (R116). -/
def romIndex (a : Addr) : Nat := a.toNat

/-- `address & 0x1FFF` (R27, R117, R186). -/
def vramIndex (a : Addr) : Nat := (a &&& Config.storeMask).toNat

/-- `address & 0x1FFF` (R31, R119; log 11). -/
def wramIndex (a : Addr) : Nat := (a &&& Config.storeMask).toNat

/-- `address & 0x00FF` (R28, R120, D8). -/
def oamIndex (a : Addr) : Nat := (a &&& Config.oamMask).toNat

/-- `address & 0x7F` (R32, R123). -/
def zramIndex (a : Addr) : Nat := (a &&& Config.zramMask).toNat

/-- The cell of a store that an address of region `r` reaches, if it reaches one: in ROM only below ROM_LEN (R116). -/
def regionCell (r : Region) (a : Addr) (s : State) : Option Cell :=
  match r with
  | .rom => if a.toNat < s.romLen then some ⟨.rom, romIndex a⟩ else none
  | .vram => some ⟨.vram, vramIndex a⟩
  | .wram => some ⟨.wram, wramIndex a⟩
  | .oam => some ⟨.oam, oamIndex a⟩
  | .zram => some ⟨.zram, zramIndex a⟩
  | .cram | .serial | .display | .unmapped => none

/-- The cell a byte access at a bus address reaches. -/
def busCell (a : Addr) (s : State) : Option Cell := regionCell (region a) a s

/-! ### Register selection -/

/-- The serial register of FF01 or FF02 (R121). -/
def serialReg (a : Addr) : SerialReg := if a = 0xFF01 then .sb else .sc

/-- A register address of the display region (R88): the ten registers, and the two addresses that hold none. -/
inductive DispReg where
  | lcdc
  | stat
  | scy
  | scx
  | ly
  | noneFF45
  | noneFF46
  | bgp
  | obp0
  | obp1
  | wy
  | wx
  deriving DecidableEq, Repr

/-- The register an address selects, by exact match (R88, R154). -/
def dispReg (a : Addr) : Option DispReg :=
  match a.toNat with
  | 0xFF40 => some .lcdc
  | 0xFF41 => some .stat
  | 0xFF42 => some .scy
  | 0xFF43 => some .scx
  | 0xFF44 => some .ly
  | 0xFF45 => some .noneFF45
  | 0xFF46 => some .noneFF46
  | 0xFF47 => some .bgp
  | 0xFF48 => some .obp0
  | 0xFF49 => some .obp1
  | 0xFF4A => some .wy
  | 0xFF4B => some .wx
  | _ => none

end Sys2Proof.Machine
end

