-- ==== Sys2Proof/Machine/Ops.lean ====
section
/-! DEFINITION. The shared operations: reading and writing a store, giving a response, raising an error status, the serial stub,
and reset with LOAD. -/

namespace Sys2Proof.Machine

/-! ### One store -/

/-- The byte at an index; an index that is not listed reads as the reset byte (R42, D19; log 13). -/
def Memory.read : Memory → Nat → Byte
  | [], _ => Config.resetByte
  | (k, b) :: m, i => if k = i then b else Memory.read m i

/-- Write one byte, keeping the canonical form. -/
def Memory.write : Memory → Nat → Byte → Memory
  | [], i, v => if v = Config.resetByte then [] else [(i, v)]
  | (k, b) :: m, i, v =>
    if k < i then (k, b) :: Memory.write m i v
    else if k = i then (if v = Config.resetByte then m else (i, v) :: m)
    else if v = Config.resetByte then (k, b) :: m
    else (i, v) :: (k, b) :: m

/-- The store that holds `bytes` from index `base` up and the reset byte elsewhere. -/
def Memory.ofBytes (base : Nat) : List Byte → Memory
  | [] => []
  | b :: bs =>
    if b = Config.resetByte then Memory.ofBytes (base + 1) bs
    else (base, b) :: Memory.ofBytes (base + 1) bs

/-- Write consecutive bytes from index `base` up: what is below, the bytes, what is above. -/
def Memory.splice (m : Memory) (base : Nat) (bytes : List Byte) : Memory :=
  m.filter (fun c => c.1 < base) ++ Memory.ofBytes base bytes ++ m.filter (fun c => base + bytes.length ≤ c.1)

/-- The canonical form: indexes strictly rising, and no entry equal to what an unlisted index reads as. -/
abbrev Memory.wf (m : Memory) : Prop :=
  m.Pairwise (fun c d => c.1 < d.1) ∧ ∀ c ∈ m, c.2 ≠ Config.resetByte

/-- Every listed index is below `n`. -/
abbrev Memory.below (m : Memory) (n : Nat) : Prop := ∀ c ∈ m, c.1 < n

/-- The bytes of a frame in the wire format (R194). -/
def frameBytes (f : Frame) : List Byte := (List.range Config.fbBytes).map (Memory.read f)

/-! ### The stores of the state -/

/-- A store of the state. -/
def State.mem (s : State) : Store → Memory
  | .rom => s.rom
  | .vram => s.vram
  | .wram => s.wram
  | .oam => s.oam
  | .zram => s.zram

/-- Replace a store of the state. -/
def State.setMem (s : State) (st : Store) (m : Memory) : State :=
  match st with
  | .rom => { s with rom := m }
  | .vram => { s with vram := m }
  | .wram => { s with wram := m }
  | .oam => { s with oam := m }
  | .zram => { s with zram := m }

/-- The byte in a cell. -/
def State.readCell (s : State) (c : Cell) : Byte := (s.mem c.store).read c.index

/-- Write the byte in a cell. -/
def State.writeCell (s : State) (c : Cell) (v : Byte) : State := s.setMem c.store ((s.mem c.store).write c.index v)

/-! ### Responses -/

/-- Give the response of a processor-port operation (R81, R83). -/
def State.respond (s : State) (r : Resp) : State := { s with resp := some r }

/-- Give the response of a display-port operation (R85). -/
def State.dispRespond (s : State) (r : DispResp) : State := { s with dresp := some r }

/-- Record what a byte primitive that was run by itself returned (log 8). -/
def State.byteDone (s : State) (r : ByteRes) : State := { s with byteRes := some r }

/-- `raise <Status>`, the block's one way of taking an exception (R8, R216): the response carries the error status; nothing is
saved, masked or transferred, and there is nothing to return from (R217). -/
def State.raise (s : State) (e : ErrStatus) : State := s.respond (.error e)

/-! ### The serial stub (R33, R121) -/

/-- `serial.read(a)`: the byte, and the stub after it. -/
def serialRead (r : SerialReg) : SerialStub → Byte × SerialStub
  | .reference sb sc =>
    match r with
    | .sb => (sb, .reference sb sc)
    | .sc => (sc, .reference sb sc)
  | .other id history => (Config.serialAnswer id history r, .other id (.read r :: history))

/-- `serial.write(a, v)`: the stub after it. -/
def serialWrite (r : SerialReg) (v : Byte) : SerialStub → SerialStub
  | .reference sb sc =>
    match r with
    | .sb => .reference v sc
    | .sc => .reference sb v
  | .other id history => .other id (.write r v :: history)

/-! ### Reset (R230 to R234) -/

/-- A serial stub right after reset: the reference store holds zeros (R42, D21), another stub has seen no access. DESIGN CHOICE
for the other stub: the spec only says that it is reset with the bus (R230; log 27). -/
def SerialKind.start : SerialKind → SerialStub
  | .reference => .reference 0x00 0x00
  | .other id => .other id []

/-- RESET(source) (R230): every field at its reset value, the serial stub that the bus is built with at its start (R33; log 27),
then LOAD (R231), and FAILED if the source yields no image (R232). Bytes of the image from 0x8000 up are dropped. What is
presented later, `rest`, stays (log 19). -/
def resetOver (source : Option (List Byte)) (serial : SerialKind) (rest : List Input) : State :=
  match source with
  | none => { State.reset with serial := serial.start, phase := .failed, inputs := rest }
  | some image =>
    { State.reset with
      serial := serial.start
      rom := Memory.ofBytes 0 (image.take Config.romSize)
      romLen := min image.length Config.romSize
      inputs := rest }

end Sys2Proof.Machine
end

