-- ==== Sys2Proof/Machine/Palette.lean ====
section
/-! DEFINITION. The palette resolver (43_scanline_render.md section 2). -/

namespace Sys2Proof.Machine

/-- SHADE(g) (R184). -/
def shade (g : BitVec 2) : Byte :=
  match g.toNat with
  | 0 => 255
  | 1 => 192
  | 2 => 96
  | _ => 0

/-- PALDECODE(P) (R183). -/
def palDecode (p : Byte) : PalMap :=
  ⟨shade (p.extractLsb' 0 2), shade (p.extractLsb' 2 2), shade (p.extractLsb' 4 2), shade (p.extractLsb' 6 2)⟩

/-- The intensity of a color id (R182). -/
def PalMap.get (m : PalMap) (id : BitVec 2) : Byte :=
  match id.toNat with
  | 0 => m.c0
  | 1 => m.c1
  | 2 => m.c2
  | _ => m.c3

end Sys2Proof.Machine
end

