-- ==== Sys2Proof/Machine/DisplayRegs.lean ====
section
/-! DEFINITION. Access to the display registers (41_display_registers.md): REGREAD and REGWRITE, and the twelve register rows
as operations of their own; then IFR and IFW. -/

namespace Sys2Proof.Machine

/-- REGREAD of a selected register address (R154; R140 to R151). -/
def regRead (r : DispReg) (s : State) : ReadRes :=
  match r with
  | .lcdc => .value .ok s.lcdc
  | .stat => .value .ok s.stat
  | .scy => .value .ok s.scy
  | .scx => .value .ok s.scx
  | .ly => .value .ok s.ly
  | .noneFF45 => .error .badreg
  | .noneFF46 => .error .badreg
  | .bgp => .value .ok s.bgp
  | .obp0 => .value .ok s.obp0
  | .obp1 => .value .ok s.obp1
  | .wy => .value .ok s.wy
  | .wx => .value .ok s.wx

/-- REGWRITE of a selected register address (R154; R140 to R151): a palette register recomputes its map, LY discards. -/
def regWrite (r : DispReg) (v : Byte) (s : State) : WriteRes × State :=
  match r with
  | .lcdc => (.done .ok, { s with lcdc := v })
  | .stat => (.done .ok, { s with stat := v })
  | .scy => (.done .ok, { s with scy := v })
  | .scx => (.done .ok, { s with scx := v })
  | .ly => (.done .ok, s)
  | .noneFF45 => (.error .badreg, s)
  | .noneFF46 => (.error .badreg, s)
  | .bgp => (.done .ok, { s with bgp := v, bgmap := palDecode v })
  | .obp0 => (.done .ok, { s with obp0 := v, obmap0 := palDecode v })
  | .obp1 => (.done .ok, { s with obp1 := v, obmap1 := palDecode v })
  | .wy => (.done .ok, { s with wy := v })
  | .wx => (.done .ok, { s with wx := v })

/-- One register access run by itself: what REGREAD or REGWRITE returned is recorded (log 8). -/
def regAccess (r : DispReg) (acc : ByteAccess) (s : State) : Host.Outcome State Fault Refusal :=
  match acc with
  | .read => .next (s.byteDone (.read (regRead r s)))
  | .write v => .next ((regWrite r v s).2.byteDone (.wrote (regWrite r v s).1))

/-- FF40, LCDC (R140). -/
def execRegFF40 (acc : ByteAccess) (s : State) : Host.Outcome State Fault Refusal := regAccess .lcdc acc s

/-- FF41, STAT (R141). -/
def execRegFF41 (acc : ByteAccess) (s : State) : Host.Outcome State Fault Refusal := regAccess .stat acc s

/-- FF42, SCY (R142). -/
def execRegFF42 (acc : ByteAccess) (s : State) : Host.Outcome State Fault Refusal := regAccess .scy acc s

/-- FF43, SCX (R143). -/
def execRegFF43 (acc : ByteAccess) (s : State) : Host.Outcome State Fault Refusal := regAccess .scx acc s

/-- FF44, LY (R144). -/
def execRegFF44 (acc : ByteAccess) (s : State) : Host.Outcome State Fault Refusal := regAccess .ly acc s

/-- FF45, no register (R145). -/
def execRegFF45 (acc : ByteAccess) (s : State) : Host.Outcome State Fault Refusal := regAccess .noneFF45 acc s

/-- FF46, no register and no transfer (R146). -/
def execRegFF46 (acc : ByteAccess) (s : State) : Host.Outcome State Fault Refusal := regAccess .noneFF46 acc s

/-- FF47, BGP (R147). -/
def execRegFF47 (acc : ByteAccess) (s : State) : Host.Outcome State Fault Refusal := regAccess .bgp acc s

/-- FF48, OBP0 (R148). -/
def execRegFF48 (acc : ByteAccess) (s : State) : Host.Outcome State Fault Refusal := regAccess .obp0 acc s

/-- FF49, OBP1 (R149). -/
def execRegFF49 (acc : ByteAccess) (s : State) : Host.Outcome State Fault Refusal := regAccess .obp1 acc s

/-- FF4A, WY (R150). -/
def execRegFF4A (acc : ByteAccess) (s : State) : Host.Outcome State Fault Refusal := regAccess .wy acc s

/-- FF4B, WX (R151). -/
def execRegFF4B (acc : ByteAccess) (s : State) : Host.Outcome State Fault Refusal := regAccess .wx acc s

/-- IFR (R152): a read does not clear. -/
def execIfr (s : State) : Host.Outcome State Fault Refusal := .next (s.respond (.done .ok (zext s.ifl)))

/-- IFW (R153): all 8 bits are stored. -/
def execIfw (v : Byte) (s : State) : Host.Outcome State Fault Refusal :=
  .next (({ s with ifl := v } : State).respond (.done .ok 0))

end Sys2Proof.Machine
end

