-- ==== Sys2Proof/Machine/Regions.lean ====
section
/-! DEFINITION. The byte primitives of the bus (40_bus_access.md sections 1 and 3): what READ1 and WRITE1 do in each region, and
the 26 address rows as operations of their own. -/

namespace Sys2Proof.Machine

/-- READ1 at an address of region `r` (R116 to R124): the result, and the state, which only a serial stub's read changes (R115). -/
def regionRead (r : Region) (a : Addr) (s : State) : ReadRes × State :=
  match regionCell r a s with
  | some c => (.value .ok (s.readCell c), s)
  | none =>
    match r with
    | .cram => (.error .unimpl, s)
    | .serial => (.value .ok (serialRead (serialReg a) s.serial).1, { s with serial := (serialRead (serialReg a) s.serial).2 })
    | .display =>
      match dispReg a with
      | some d => (regRead d s, s)
      | none => (.error .badreg, s)
    | .rom | .vram | .wram | .oam | .zram | .unmapped => (.value .unmapped Config.openBus, s)

/-- WRITE1 at an address of region `r` (R116 to R124): the result, and the state after it. -/
def regionWrite (r : Region) (a : Addr) (v : Byte) (s : State) : WriteRes × State :=
  match regionCell r a s with
  | some c => (.done .ok, s.writeCell c v)
  | none =>
    match r with
    | .cram => (.error .unimpl, s)
    | .serial => (.done .ok, { s with serial := serialWrite (serialReg a) v s.serial })
    | .display =>
      match dispReg a with
      | some d => regWrite d v s
      | none => (.error .badreg, s)
    | .rom | .vram | .wram | .oam | .zram | .unmapped => (.done .unmapped, s)

/-- READ1(a) (R114). -/
def read1 (a : Addr) (s : State) : ReadRes × State := regionRead (region a) a s

/-- WRITE1(a, v) (R114). -/
def write1 (a : Addr) (v : Byte) (s : State) : WriteRes × State := regionWrite (region a) a v s

/-- One byte access of a region run by itself: what READ1 or WRITE1 returned is recorded (log 6, 8). -/
def regionAccess (r : Region) (a : Addr) (acc : ByteAccess) (s : State) : Host.Outcome State Fault Refusal :=
  match acc with
  | .read => .next ((regionRead r a s).2.byteDone (.read (regionRead r a s).1))
  | .write v => .next ((regionWrite r a v s).2.byteDone (.wrote (regionWrite r a v s).1))

/-- The byte access in block 0000/8000 (R116). -/
def execRom0000 (a : Addr) (acc : ByteAccess) (s : State) : Host.Outcome State Fault Refusal :=
  regionAccess .rom a acc s

/-- The byte access in block 8000/E000 (R117). -/
def execVram8000 (a : Addr) (acc : ByteAccess) (s : State) : Host.Outcome State Fault Refusal :=
  regionAccess .vram a acc s

/-- The byte access in block A000/E000 (R118). -/
def execCramA000 (a : Addr) (acc : ByteAccess) (s : State) : Host.Outcome State Fault Refusal :=
  regionAccess .cram a acc s

/-- The byte access in block C000/E000 (R119). -/
def execWramC000 (a : Addr) (acc : ByteAccess) (s : State) : Host.Outcome State Fault Refusal :=
  regionAccess .wram a acc s

/-- The byte access in block E000/F000 (R119). -/
def execWramE000 (a : Addr) (acc : ByteAccess) (s : State) : Host.Outcome State Fault Refusal :=
  regionAccess .wram a acc s

/-- The byte access in block F000/F800 (R119). -/
def execWramF000 (a : Addr) (acc : ByteAccess) (s : State) : Host.Outcome State Fault Refusal :=
  regionAccess .wram a acc s

/-- The byte access in block F800/FC00 (R119). -/
def execWramF800 (a : Addr) (acc : ByteAccess) (s : State) : Host.Outcome State Fault Refusal :=
  regionAccess .wram a acc s

/-- The byte access in block FC00/FE00 (R119). -/
def execWramFC00 (a : Addr) (acc : ByteAccess) (s : State) : Host.Outcome State Fault Refusal :=
  regionAccess .wram a acc s

/-- The byte access in block FE00/FF80 (R120). -/
def execOamFE00 (a : Addr) (acc : ByteAccess) (s : State) : Host.Outcome State Fault Refusal :=
  regionAccess .oam a acc s

/-- The byte access in block FE80/FFE0 (R120). -/
def execOamFE80 (a : Addr) (acc : ByteAccess) (s : State) : Host.Outcome State Fault Refusal :=
  regionAccess .oam a acc s

/-- The byte access in block FEA0/FFE0 (R124). -/
def execUnmappedFEA0 (a : Addr) (acc : ByteAccess) (s : State) : Host.Outcome State Fault Refusal :=
  regionAccess .unmapped a acc s

/-- The byte access in block FEC0/FFC0 (R124). -/
def execUnmappedFEC0 (a : Addr) (acc : ByteAccess) (s : State) : Host.Outcome State Fault Refusal :=
  regionAccess .unmapped a acc s

/-- The byte access at FF00 (R124). -/
def execUnmappedFF00 (acc : ByteAccess) (s : State) : Host.Outcome State Fault Refusal :=
  regionAccess .unmapped 0xFF00 acc s

/-- The byte access at FF01 (R121). -/
def execSerialFF01 (acc : ByteAccess) (s : State) : Host.Outcome State Fault Refusal :=
  regionAccess .serial 0xFF01 acc s

/-- The byte access at FF02 (R121). -/
def execSerialFF02 (acc : ByteAccess) (s : State) : Host.Outcome State Fault Refusal :=
  regionAccess .serial 0xFF02 acc s

/-- The byte access at FF03 (R124). -/
def execUnmappedFF03 (acc : ByteAccess) (s : State) : Host.Outcome State Fault Refusal :=
  regionAccess .unmapped 0xFF03 acc s

/-- The byte access in block FF04/FFFC (R124). -/
def execUnmappedFF04 (a : Addr) (acc : ByteAccess) (s : State) : Host.Outcome State Fault Refusal :=
  regionAccess .unmapped a acc s

/-- The byte access in block FF08/FFF8 (R124). -/
def execUnmappedFF08 (a : Addr) (acc : ByteAccess) (s : State) : Host.Outcome State Fault Refusal :=
  regionAccess .unmapped a acc s

/-- The byte access in block FF10/FFF0 (R124). -/
def execUnmappedFF10 (a : Addr) (acc : ByteAccess) (s : State) : Host.Outcome State Fault Refusal :=
  regionAccess .unmapped a acc s

/-- The byte access in block FF20/FFE0 (R124). -/
def execUnmappedFF20 (a : Addr) (acc : ByteAccess) (s : State) : Host.Outcome State Fault Refusal :=
  regionAccess .unmapped a acc s

/-- The byte access in block FF40/FFF8 (R122). -/
def execDisplayFF40 (a : Addr) (acc : ByteAccess) (s : State) : Host.Outcome State Fault Refusal :=
  regionAccess .display a acc s

/-- The byte access in block FF48/FFFC (R122). -/
def execDisplayFF48 (a : Addr) (acc : ByteAccess) (s : State) : Host.Outcome State Fault Refusal :=
  regionAccess .display a acc s

/-- The byte access in block FF4C/FFFC (R124). -/
def execUnmappedFF4C (a : Addr) (acc : ByteAccess) (s : State) : Host.Outcome State Fault Refusal :=
  regionAccess .unmapped a acc s

/-- The byte access in block FF50/FFF0 (R124). -/
def execUnmappedFF50 (a : Addr) (acc : ByteAccess) (s : State) : Host.Outcome State Fault Refusal :=
  regionAccess .unmapped a acc s

/-- The byte access in block FF60/FFE0 (R124). -/
def execUnmappedFF60 (a : Addr) (acc : ByteAccess) (s : State) : Host.Outcome State Fault Refusal :=
  regionAccess .unmapped a acc s

/-- The byte access in block FF80/FF80 (R123). -/
def execZramFF80 (a : Addr) (acc : ByteAccess) (s : State) : Host.Outcome State Fault Refusal :=
  regionAccess .zram a acc s

end Sys2Proof.Machine
end

