-- ==== Sys2Proof/Machine/BusAccess.lean ====
section
/-! DEFINITION. The four access operations of the processor port and the reserved operation code (40_bus_access.md section 2,
R92 of 30_encoding.md). -/

namespace Sys2Proof.Machine

/-- RDB(addr) (R110). -/
def execRdb (a : Addr) (s : State) : Host.Outcome State Fault Refusal :=
  let r := read1 a s
  match r.1 with
  | .error e => .next (r.2.raise e)
  | .value st b => .next (r.2.respond (.done st (zext b)))

/-- WRB(addr, v) (R111). -/
def execWrb (a : Addr) (v : Byte) (s : State) : Host.Outcome State Fault Refusal :=
  let r := write1 a v s
  match r.1 with
  | .error e => .next (r.2.raise e)
  | .done st => .next (r.2.respond (.done st 0))

/-- RDW(addr) (R112): low byte first; an error ends the operation. -/
def execRdw (a : Addr) (s : State) : Host.Outcome State Fault Refusal :=
  let r0 := read1 a s
  match r0.1 with
  | .error e => .next (r0.2.raise e)
  | .value st0 b0 =>
    let r1 := read1 (nextAddr a) r0.2
    match r1.1 with
    | .error e => .next (r1.2.raise e)
    | .value st1 b1 => .next (r1.2.respond (.done (mergeStatus st0 st1) (wordOf b1 b0)))

/-- WRW(addr, w) (R113): low byte first; an error ends the operation, and the low byte stays written. -/
def execWrw (a : Addr) (w : Half) (s : State) : Host.Outcome State Fault Refusal :=
  let r0 := write1 a (lowByte w) s
  match r0.1 with
  | .error e => .next (r0.2.raise e)
  | .done st0 =>
    let r1 := write1 (nextAddr a) (highByte w) r0.2
    match r1.1 with
    | .error e => .next (r1.2.raise e)
    | .done st1 => .next (r1.2.respond (.done (mergeStatus st0 st1) 0))

/-- The reserved operation code 7 (R92): ERR_BADOP, and no state changes. -/
def execReservedOp7 (s : State) : Host.Outcome State Fault Refusal := .next (s.raise .badop)

end Sys2Proof.Machine
end

