-- ==== Sys2Proof/Machine/HandOff.lean ====
section
/-! DEFINITION. The hand-off controller and the display port (44_frame_handoff.md). -/

namespace Sys2Proof.Machine

/-- The condition that HANDOFF waits for: room in the channel, or no receiver (R191, R192). -/
def canHandOff (s : State) : Bool := s.queue.length < Config.chanCap || !s.connected

/-- HANDOFF once it does not hold (R191): the frame is delivered, or dropped when the receiver has disconnected (R193); FB is a
fresh buffer in both branches. -/
def handOff (s : State) : State :=
  if s.connected then
    { s with queue := s.queue ++ [s.fb], events := s.events ++ [.deliver s.fb], fb := [] }
  else { s with events := s.events ++ [.drop], fb := [] }

/-- TAKE (R195). -/
def execTake (s : State) : Host.Outcome State Fault Refusal :=
  if s.connected then
    match s.queue with
    | [] => .next (s.dispRespond .empty)
    | f :: q => .next (({ s with queue := q } : State).dispRespond (.frame f))
  else .next (s.dispRespond .closed)

/-- DISC (R196). -/
def execDisc (s : State) : Host.Outcome State Fault Refusal :=
  if s.connected then .next (({ s with connected := false, queue := [] } : State).dispRespond .done)
  else .next (s.dispRespond .closed)

end Sys2Proof.Machine
end

