-- ==== Sys2Proof/Machine/Render.lean ====
section
/-! DEFINITION. The scanline renderer (43_scanline_render.md section 1). Screen columns, rows and pixel values of the background
are natural numbers; addresses are formed as the bus forms them and reach VRAM through the same mask (R186). -/

namespace Sys2Proof.Machine

/-- The renderer's read of video memory (R186). -/
def vramByte (s : State) (a : Addr) : Byte := s.readCell ⟨.vram, vramIndex a⟩

/-- The background row of screen row `y` (R176). -/
def bgRow (s : State) (y : Nat) : Nat := (s.scy.toNat + y) % 256

/-- The background column of screen column `x` (R177). -/
def bgCol (s : State) (x : Nat) : Nat := (s.scx.toNat + x) % 256

/-- The base of the tile map (R178). -/
def mapBase (high : Bool) : Nat := if high then 0x9C00 else 0x9800

/-- The address of the tile index of a background row and column (R178). -/
def tileMapAddr (high : Bool) (row col : Nat) : Nat := mapBase high + row / 8 * Config.mapStride + col / 8

/-- The address of a tile's data (R179): the index is unsigned from 0x8000, or signed from 0x8800. -/
def tileDataAddr (unsigned : Bool) (idx : Byte) : Nat :=
  if unsigned then 0x8000 + idx.toNat * Config.tileBytes
  else 0x8800 + (idx.toInt + 128).toNat * Config.tileBytes

/-- The color id of a tile column from the two bit-plane bytes of the tile row; the leftmost column is bit 7 (R181, D18; log 21). -/
def colorId (p1 p2 : Byte) (cin : Nat) : BitVec 2 :=
  (if p1.getLsbD (7 - cin) then 1 else 0) ||| (if p2.getLsbD (7 - cin) then 2 else 0)

/-- PIXEL(X, Y) (R185): the steps R176 to R182 in order. -/
def pixel (s : State) (x y : Nat) : Byte :=
  let row := bgRow s y
  let col := bgCol s x
  let idx := vramByte s (BitVec.ofNat 16 (tileMapAddr (mapSelHigh s) row col))
  let line := tileDataAddr (tileSelUnsigned s) idx + row % 8 * 2
  let p1 := vramByte s (BitVec.ofNat 16 line)
  let p2 := vramByte s (BitVec.ofNat 16 (line + 1))
  s.bgmap.get (colorId p1 p2 (col % 8))

/-- The 480 bytes of row `y`: each pixel three times (R187). -/
def rowBytes (s : State) (y : Nat) : List Byte :=
  (List.range Config.fbWidth).flatMap fun x => List.replicate Config.channels (pixel s x y)

/-- The index in FB of channel `c` of the pixel in column `x`, row `y` (R29, R194). -/
def fbIndex (x y c : Nat) : Nat := (y * Config.fbWidth + x) * Config.channels + c

/-- RENDER_LINE(Y) (R175): the 480 bytes of row Y are written at once, since their order does not matter (log 15). -/
def renderLine (s : State) (y : Nat) : State := { s with fb := s.fb.splice (fbIndex 0 y 0) (rowBytes s y) }

end Sys2Proof.Machine
end

