-- ==== Sys2Proof/Machine/CycleAdvance.lean ====
section
/-! DEFINITION. Cycle advance and the scanline state machine (42_cycle_advance.md). -/

namespace Sys2Proof.Machine

/-- The state of the scanline state machine, a function of LY (R24). -/
def engineState (s : State) : EngineState := if s.ly.toNat < Config.visibleLines then .scanning else .vblank

/-- LY after one line step (R162). -/
def nextLine (ly : Byte) : Byte := BitVec.ofNat 8 ((ly.toNat + 1) % Config.linesPerFrame)

/-- LINE_STEP up to the hand-off (R162, R163, R164): CLK and LY move on, a visible line is rendered, and IF bit 0 is set on
entering line 144. The tests use the new LY. -/
def lineStep (s : State) : State :=
  let s1 : State := { s with clk := s.clk - Config.cyclesPerLine, ly := nextLine s.ly }
  if s1.ly.toNat < Config.visibleLines then renderLine s1 s1.ly.toNat
  else if s1.ly.toNat = Config.vblankLine then { s1 with ifl := setVblank s1.ifl }
  else s1

/-- ADV has done its last line step: the response (R160, R210). -/
def advDone (dropped : Bool) (s : State) : State := s.respond (.done (advStatus dropped) 0)

/-- ADV waits at a hand-off: no response yet (R192). -/
def advHold (dropped : Bool) (s : State) : State := { s with hold := some ⟨dropped⟩, resp := none }

/-- The loop of ADV, `while CLK >= 114: LINE_STEP()` (R160), with HANDOFF on landing on line 144 (R162, R191). The fuel is the
number of line steps still to do; it never runs out before the loop ends, since each step takes 114 off CLK. -/
def advLoop : Nat → Bool → State → State
  | 0, dropped, s => advDone dropped s
  | fuel + 1, dropped, s =>
    if s.clk < Config.cyclesPerLine then advDone dropped s
    else
      let s1 := lineStep s
      if s1.ly.toNat = Config.vblankLine then
        if canHandOff s1 then advLoop fuel (dropped || !s1.connected) (handOff s1)
        else advHold dropped s1
      else advLoop fuel dropped s1

/-- The loop of ADV from where CLK stands. -/
def runLines (dropped : Bool) (s : State) : State := advLoop (s.clk / Config.cyclesPerLine) dropped s

/-- ADV(n) (R160, R161). -/
def execAdv (n : Nat) (s : State) : Host.Outcome State Fault Refusal :=
  if lcdEnabled s then .next (runLines false { s with clk := s.clk + n })
  else .next (s.respond (.done .ok 0))

/-- A held ADV goes on when its hold is lifted, and otherwise nothing happens (R192, R201). -/
def proceed (s : State) : State :=
  match s.hold with
  | none => s
  | some h =>
    if canHandOff s then runLines (h.dropped || !s.connected) (handOff { s with hold := none })
    else s

end Sys2Proof.Machine
end

