-- ==== Sys2Proof/Machine/Dispatch.lean ====
section
/-! DEFINITION. One arm per operation: the meaning it is given. -/

namespace Sys2Proof.Machine

/-- The effect of one operation, by its constructor. -/
def exec (i : Instr) (s : State) : Host.Outcome State Fault Refusal :=
  match i with
  | .rdb a => Sys2Proof.Machine.execRdb a s
  | .wrb a v => Sys2Proof.Machine.execWrb a v s
  | .rdw a => Sys2Proof.Machine.execRdw a s
  | .wrw a w => Sys2Proof.Machine.execWrw a w s
  | .adv n => Sys2Proof.Machine.execAdv n s
  | .ifr => Sys2Proof.Machine.execIfr s
  | .ifw v => Sys2Proof.Machine.execIfw v s
  | .reservedOp7 => Sys2Proof.Machine.execReservedOp7 s
  | .take => Sys2Proof.Machine.execTake s
  | .disc => Sys2Proof.Machine.execDisc s
  | .rom0000 a acc => Sys2Proof.Machine.execRom0000 a acc s
  | .vram8000 a acc => Sys2Proof.Machine.execVram8000 a acc s
  | .cramA000 a acc => Sys2Proof.Machine.execCramA000 a acc s
  | .wramC000 a acc => Sys2Proof.Machine.execWramC000 a acc s
  | .wramE000 a acc => Sys2Proof.Machine.execWramE000 a acc s
  | .wramF000 a acc => Sys2Proof.Machine.execWramF000 a acc s
  | .wramF800 a acc => Sys2Proof.Machine.execWramF800 a acc s
  | .wramFC00 a acc => Sys2Proof.Machine.execWramFC00 a acc s
  | .oamFE00 a acc => Sys2Proof.Machine.execOamFE00 a acc s
  | .oamFE80 a acc => Sys2Proof.Machine.execOamFE80 a acc s
  | .unmappedFEA0 a acc => Sys2Proof.Machine.execUnmappedFEA0 a acc s
  | .unmappedFEC0 a acc => Sys2Proof.Machine.execUnmappedFEC0 a acc s
  | .unmappedFF00 acc => Sys2Proof.Machine.execUnmappedFF00 acc s
  | .serialFF01 acc => Sys2Proof.Machine.execSerialFF01 acc s
  | .serialFF02 acc => Sys2Proof.Machine.execSerialFF02 acc s
  | .unmappedFF03 acc => Sys2Proof.Machine.execUnmappedFF03 acc s
  | .unmappedFF04 a acc => Sys2Proof.Machine.execUnmappedFF04 a acc s
  | .unmappedFF08 a acc => Sys2Proof.Machine.execUnmappedFF08 a acc s
  | .unmappedFF10 a acc => Sys2Proof.Machine.execUnmappedFF10 a acc s
  | .unmappedFF20 a acc => Sys2Proof.Machine.execUnmappedFF20 a acc s
  | .displayFF40 a acc => Sys2Proof.Machine.execDisplayFF40 a acc s
  | .displayFF48 a acc => Sys2Proof.Machine.execDisplayFF48 a acc s
  | .unmappedFF4C a acc => Sys2Proof.Machine.execUnmappedFF4C a acc s
  | .unmappedFF50 a acc => Sys2Proof.Machine.execUnmappedFF50 a acc s
  | .unmappedFF60 a acc => Sys2Proof.Machine.execUnmappedFF60 a acc s
  | .zramFF80 a acc => Sys2Proof.Machine.execZramFF80 a acc s
  | .regFF40 acc => Sys2Proof.Machine.execRegFF40 acc s
  | .regFF41 acc => Sys2Proof.Machine.execRegFF41 acc s
  | .regFF42 acc => Sys2Proof.Machine.execRegFF42 acc s
  | .regFF43 acc => Sys2Proof.Machine.execRegFF43 acc s
  | .regFF44 acc => Sys2Proof.Machine.execRegFF44 acc s
  | .regFF45 acc => Sys2Proof.Machine.execRegFF45 acc s
  | .regFF46 acc => Sys2Proof.Machine.execRegFF46 acc s
  | .regFF47 acc => Sys2Proof.Machine.execRegFF47 acc s
  | .regFF48 acc => Sys2Proof.Machine.execRegFF48 acc s
  | .regFF49 acc => Sys2Proof.Machine.execRegFF49 acc s
  | .regFF4A acc => Sys2Proof.Machine.execRegFF4A acc s
  | .regFF4B acc => Sys2Proof.Machine.execRegFF4B acc s

end Sys2Proof.Machine
end

