-- ==== Sys2Proof/Machine/Fetch.lean ====
section
/-! DEFINITION. Which operation the next step runs (R81, R85; log 2 to 5). -/

namespace Sys2Proof.Machine

/-- Whether a request is one of the display port (R85). -/
def onDisplayPort : Request → Bool
  | .dreq1 _ => true
  | .req35 _ | .addr16 _ | .reg16 _ => false

/-- An accepted request: its operation, or the reason its word stands for none. -/
def fetchRequest (r : Request) (s : State) : Fetched :=
  match decode r with
  | .ok i => .run i s
  | .error e => .refused (.undecodable e)

/-- What the next step does. With nothing presented a held hand-off goes on if it can (log 4). A request is accepted only in
PHASE RUN (R81, R85); a processor-port request not while an ADV holds: a hold that is lifted ends first, one that is not leaves
no step (R81, R192, R225; log 3, 5). -/
def fetch (s : State) : Fetched :=
  match s.inputs with
  | [] => .quiet (proceed s)
  | .proceed :: rest => .quiet (proceed { s with inputs := rest })
  | .reset source serial :: rest => .quiet (resetOver source serial rest)
  | .request r :: rest =>
    if s.phase ≠ .run then .stuck .notRunning
    else if s.hold.isSome && !onDisplayPort r then
      if canHandOff s then .quiet (proceed s) else .stuck .portHeld
    else fetchRequest r { s with inputs := rest }

/-- The state in which the next step runs the operation of a table word: PHASE RUN, the request presented first, and for a
processor-port word no ADV in progress (log 23). -/
def withRequest (s : State) (r : Request) : State :=
  { s with phase := .run, hold := if onDisplayPort r then s.hold else none, inputs := .request r :: s.inputs }

end Sys2Proof.Machine
end

