-- ==== Sys2Proof/Machine/Step.lean ====
section
/-! DEFINITION. One step of the block: accept what is presented, and run it. -/

namespace Sys2Proof.Machine

/-- One step (R60, R81). -/
def step (s : State) : Host.Outcome State Fault Refusal :=
  match fetch s with
  | .run i s' => exec i s'
  | .quiet s' => .next s'
  | .stuck f => .fault f
  | .refused r => .refused r

/-- The state whose next step runs the operation that the table word stands for (log 2, 23). -/
def State.withFetchWord (s : State) (nbits w : Nat) : State := withRequest s (tableRequest nbits w)

end Sys2Proof.Machine
end

