-- ==== Sys2Proof/Safety.lean ====
section
/-! DEFINITION. What claims about the block are stated in: the invariants of R39, and the relations that say what an operation
left alone. -/

namespace Sys2Proof.Machine

/-- A store holds its canonical form and lists no index outside its size (R37). -/
abbrev storeOk (m : Memory) (size : Nat) : Prop := m.wf ∧ m.below size

/-- Every store is in its canonical form and inside its size (R27 to R32, R37). -/
abbrev StoresOk (s : State) : Prop :=
  storeOk s.vram Config.vramSize ∧ storeOk s.oam Config.oamSize ∧ storeOk s.fb Config.fbBytes ∧ storeOk s.rom s.romLen ∧
  storeOk s.wram Config.wramSize ∧ storeOk s.zram Config.zramSize ∧ s.romLen ≤ Config.romSize

/-- The cached palette maps are the decode of their registers (R25, R26, R39c). -/
abbrev MapsInSync (s : State) : Prop :=
  s.bgmap = palDecode s.bgp ∧ s.obmap0 = palDecode s.obp0 ∧ s.obmap1 = palDecode s.obp1

/-- The channel holds at most CHAN_CAP frames, none once disconnected, each a frame of FB's size (R34, R35, R39e, R39f). -/
abbrev ChannelOk (s : State) : Prop :=
  s.queue.length ≤ Config.chanCap ∧ (s.connected = false → s.queue = []) ∧ ∀ f ∈ s.queue, storeOk f Config.fbBytes

/-- The sequencer: LY in 0..153; CLK below 114 unless an ADV is in progress, and one in progress stands at line 144 with the
vertical-blank flag and the display-enable bit set, in PHASE RUN (R16, R23, R39a, R39b, R160, R192). -/
abbrev SequencerOk (s : State) : Prop :=
  s.ly.toNat < Config.linesPerFrame ∧ (s.hold = none → s.clk < Config.cyclesPerLine) ∧
  (s.hold ≠ none → s.ly.toNat = Config.vblankLine ∧ vblankPending s = true ∧ lcdEnabled s = true ∧ s.phase = .run)

/-- The invariants of R39, which hold between any two steps. -/
abbrev State.Inv (s : State) : Prop := StoresOk s ∧ MapsInSync s ∧ ChannelOk s ∧ SequencerOk s

/-- A byte that a delivered pixel channel may hold: an intensity of R184, or the fill of an unrendered pixel (R194). -/
abbrev isIntensity (b : Byte) : Prop := b = 255 ∨ b = 192 ∨ b = 96 ∨ b = 0 ∨ b = Config.fbFill

/-- A frame is grayscale: the three channels of every pixel are equal, and an intensity (R29, R187, R194). -/
def Grayscale (f : Memory) : Prop :=
  ∀ x < Config.fbWidth, ∀ y < Config.fbHeight, ∀ c < Config.channels,
    f.read (fbIndex x y c) = f.read (fbIndex x y 0) ∧ isIntensity (f.read (fbIndex x y 0))

/-- The frame of an event, if it is a delivery. -/
def Event.frame? : Event → Option Frame
  | .deliver f => some f
  | .drop => none

/-- Every frame the block is building, holds or has delivered is grayscale (R194). -/
def FramesGrayscale (s : State) : Prop :=
  Grayscale s.fb ∧ (∀ f ∈ s.queue, Grayscale f) ∧ ∀ e ∈ s.events, ∀ f, e.frame? = some f → Grayscale f

/-- How many of the next `k` line steps from line `ly` land on line 144 (R168). -/
def vblankEntries (ly k : Nat) : Nat :=
  ((List.range k).filter fun j => (ly + (j + 1)) % Config.linesPerFrame = Config.vblankLine).length

/-- The display registers and the maps that a bus write may change are as before. -/
abbrev SameRegisters (s t : State) : Prop :=
  t.lcdc = s.lcdc ∧ t.stat = s.stat ∧ t.scy = s.scy ∧ t.scx = s.scx ∧ t.bgp = s.bgp ∧ t.obp0 = s.obp0 ∧ t.obp1 = s.obp1 ∧
  t.wy = s.wy ∧ t.wx = s.wx ∧ t.bgmap = s.bgmap ∧ t.obmap0 = s.obmap0 ∧ t.obmap1 = s.obmap1

/-- Everything that only ADV and IFW change on the driver's side is as before: LY, CLK, IF, FB, the event history, and the ADV
in progress (R11, R41, R115). -/
abbrev SameEngine (s t : State) : Prop :=
  t.ly = s.ly ∧ t.clk = s.clk ∧ t.ifl = s.ifl ∧ t.fb = s.fb ∧ t.events = s.events ∧ t.hold = s.hold

/-- The channel is as before. -/
abbrev SameChannel (s t : State) : Prop := t.queue = s.queue ∧ t.connected = s.connected

/-- What no operation changes: ROM_LEN (R30) and PHASE (R36), and what is presented next. -/
abbrev SamePlatform (s t : State) : Prop := t.romLen = s.romLen ∧ t.phase = s.phase ∧ t.inputs = s.inputs

/-- Every byte of every store of the bus reads as before. -/
abbrev SameStores (s t : State) : Prop := ∀ c : Cell, t.readCell c = s.readCell c

/-- A step that is no fault and no refusal. -/
abbrev Runs (o : Host.Outcome State Fault Refusal) : Prop := ∃ t, o = .next t

end Sys2Proof.Machine
end

