-- ==== Sys2Proof/Certificates/Slice0/Obligations.lean ====
section
/-! DEFINITION. The statements for the provers, from the numbered rules of spec/. -/

open Sys2Proof Sys2Proof.Machine

/-! ### Encoding and decoding -/

/-- Request words that 95_test_vectors.md writes out (V-E1, R80, R82) and a display-port word of each kind (R86) decode to the
operation they stand for; so do four byte-access words of the model's own 25-bit layout, whose address bits are R87's and R88's and
whose bits 24:16 are the model's choice (log 6). -/
def Obligations.SpecWordsDecodeToTheirOperations : Prop :=
  decode (.req35 0x000010000) = .ok (.rdb 0x0001) ∧ decode (.req35 0x1FE100042) = .ok (.wrb 0xFE10 0x42) ∧
  decode (.req35 0x1FE10FF42) = .ok (.wrb 0xFE10 0x42) ∧ decode (.req35 0x2C000FFFF) = .ok (.rdw 0xC000) ∧
  decode (.req35 0x3C000BEEF) = .ok (.wrw 0xC000 0xBEEF) ∧ decode (.req35 0x4ABCD0072) = .ok (.adv 114) ∧
  decode (.req35 0x40000FFFF) = .ok (.adv 65535) ∧ decode (.req35 0x5FFFFFFFF) = .ok .ifr ∧
  decode (.req35 0x60000FFA5) = .ok (.ifw 0xA5) ∧ decode (.req35 0x7FFFFFFFF) = .ok .reservedOp7 ∧
  decode (.dreq1 0) = .ok .take ∧ decode (.dreq1 1) = .ok .disc ∧
  decode (.addr16 0x007FFF) = .ok (.rom0000 0x7FFF .read) ∧ decode (.addr16 0x15AFE9F) = .ok (.oamFE80 0xFE9F (.write 0x5A)) ∧
  decode (.reg16 0x1E4FF47) = .ok (.regFF47 (.write 0xE4)) ∧ decode (.reg16 0x00FF44) = .ok (.regFF44 .read)

/-- A request word op x 2^32 + addr x 2^16 + data (R96) is the operation of its code (R82), with the fields of R84: WRB and IFW
take data[7:0], ADV reads data as an unsigned count, and what an operation does not use has no effect. The bit positions are the
spec's decision D1. -/
def Obligations.RequestFieldsAreReadByOperationCode : Prop :=
  ∀ a d : BitVec 16,
    let word := fun op : Nat => Request.req35 (BitVec.ofNat 35 (op * 2 ^ 32 + a.toNat * 2 ^ 16 + d.toNat))
    decode (word 0) = .ok (.rdb a) ∧ decode (word 1) = .ok (.wrb a (BitVec.ofNat 8 d.toNat)) ∧
    decode (word 2) = .ok (.rdw a) ∧ decode (word 3) = .ok (.wrw a d) ∧ decode (word 4) = .ok (.adv d.toNat) ∧
    decode (word 5) = .ok .ifr ∧ decode (word 6) = .ok (.ifw (BitVec.ofNat 8 d.toNat)) ∧ decode (word 7) = .ok .reservedOp7

/-- Decode and encode agree on every well-formed operation, with every operand the encoding admits. The layout of the two inner
formats is the model's choice (log 6). -/
def Obligations.DecodingAnEncodedOperationGivesItBack : Prop :=
  ∀ i : Instr, i.wellFormed = true → decode (encode i) = .ok i

/-- Whatever decodes is well-formed: a count of at most 65535 (R90), an address inside its row's block (R87). -/
def Obligations.DecodedOperationsAreWellFormed : Prop :=
  ∀ (r : Request) (i : Instr), decode r = .ok i → i.wellFormed = true

/-- The 26 blocks of R87 are disjoint, cover the space, and give the region that the ranges of R50 give. -/
def Obligations.EveryAddressIsInExactlyOneBlock : Prop :=
  ∀ a : Addr, ∃ r, addrRows.filter (fun r => inBlock a r.mask r.pattern) = [r] ∧ findAddrRow a = some r ∧ r.region = region a

/-! ### Accepting requests -/

/-- An accepted request runs as the operation it decodes to, in the state without it (R60, R81). The input list is the model's
(log 2). -/
def Obligations.StepRunsTheDecodedRequest : Prop :=
  ∀ (s : State) (r : Request) (rest : List Input) (i : Instr),
    s.inputs = .request r :: rest → s.phase = .run → (s.hold = none ∨ onDisplayPort r = true) → decode r = .ok i →
    step s = exec i { s with inputs := rest }

/-- A request is accepted only in PHASE RUN, and one of the processor port not while an ADV holds on a full, connected channel
(R81, R85, R192): there is no step. A full channel is one that is not empty, since CHAN_CAP is 1, the spec's decision D23 (log 12).
That a lifted hold ends before the next request is accepted is the model's reading (log 3); that "no step" is a fault, and the input
list, are the model's choice (log 2, 5). -/
def Obligations.RequestsAreAcceptedOnlyWhileRunningAndNotHeld : Prop :=
  ∀ (s : State) (r : Request) (rest : List Input), s.inputs = .request r :: rest →
    (s.phase ≠ .run → step s = .fault .notRunning) ∧
    (s.phase = .run → onDisplayPort r = false → s.hold ≠ none → s.connected = true → s.queue ≠ [] →
      step s = .fault .portHeld) ∧
    (s.phase = .run → onDisplayPort r = false → s.hold ≠ none → (s.connected = false ∨ s.queue = []) →
      step s = .next (proceed s))

/-! ### Reset -/

/-- A reset may be applied in any state and nothing of that state survives it (R234, D24): the state after it is the reset state
over its own source and serial stub. That later inputs stay, and that a reset is given its stub, is the model's choice (log 19,
27). -/
def Obligations.NothingSurvivesReset : Prop :=
  ∀ (s : State) (source : Option (List Byte)) (serial : SerialKind) (rest : List Input),
    s.inputs = .reset source serial :: rest → step s = .next (resetOver source serial rest)

/-- The state after a successful reset (R42): LY and ROM from the source, the rest the spec's decisions D19, D20, D21, D23, D24
(log 13); the serial stub is the one given, at its start: the reference store with zeros (D21), any other with no access behind it
(the model's choice, log 27); and a source without an image leaves PHASE FAILED (D24). -/
def Obligations.ResetLeavesTheCollectedResetValues : Prop :=
  (∀ (image : List Byte) (serial : SerialKind) (rest : List Input),
    let s := resetOver (some image) serial rest
    s.ly = 0 ∧ engineState s = .scanning ∧ s.lcdc = 0 ∧ s.stat = 0 ∧ s.scy = 0 ∧ s.scx = 0 ∧ s.bgp = 0 ∧ s.obp0 = 0 ∧
    s.obp1 = 0 ∧ s.wy = 0 ∧ s.wx = 0 ∧ s.ifl = 0 ∧ s.clk = 0 ∧ s.bgmap = ⟨255, 255, 255, 255⟩ ∧
    s.obmap0 = ⟨255, 255, 255, 255⟩ ∧ s.obmap1 = ⟨255, 255, 255, 255⟩ ∧
    (∀ i, s.vram.read i = 0 ∧ s.oam.read i = 0 ∧ s.wram.read i = 0 ∧ s.zram.read i = 0 ∧ s.fb.read i = 0) ∧
    s.romLen = min image.length 0x8000 ∧ (∀ i (h : i < image.length), i < 0x8000 → s.rom.read i = image[i]) ∧
    s.queue = [] ∧ s.connected = true ∧ s.phase = .run ∧ s.events = [] ∧ s.hold = none ∧
    (serial = .reference → s.serial = .reference 0 0) ∧ ∀ id, serial = .other id → s.serial = .other id []) ∧
  ∀ (serial : SerialKind) (rest : List Input), (resetOver none serial rest).phase = .failed

/-- The invariants of R39 hold after every reset, and in the state the model starts from. -/
def Obligations.ResetMeetsTheInvariants : Prop :=
  State.reset.Inv ∧
  ∀ (source : Option (List Byte)) (serial : SerialKind) (rest : List Input), (resetOver source serial rest).Inv

/-! ### Invariants -/

/-- The invariants of R39, the canonical form of every store, and what an ADV in progress keeps during its hold (R192), are kept by
every step from every state that meets them. -/
def Obligations.EveryStepKeepsTheInvariants : Prop :=
  ∀ s t : State, s.Inv → step s = .next t → t.Inv

/-- Every frame that is built, queued or delivered stays grayscale with the four intensities of R184, or FB_FILL (R187, R194). -/
def Obligations.EveryFrameStaysGrayscale : Prop :=
  ∀ s t : State, s.Inv → FramesGrayscale s → step s = .next t → FramesGrayscale t

/-! ### Byte and word accesses -/

/-- RDB at every address, by the ranges of R50 (R110, R116 to R124): its response, and that nothing else changes but a serial
stub of its own accord. D6, D7, D8, D9, D10 and D15 are the spec's decisions (log 10, 11, 22). -/
def Obligations.ByteReadsFollowTheirRegion : Prop :=
  ∀ (a : Addr) (s : State),
    let n := a.toNat
    let ok := fun b : Byte => Host.Outcome.next (φ := Fault) (ρ := Refusal) { s with resp := some (.done .ok (zext b)) }
    let unmapped := Host.Outcome.next (φ := Fault) (ρ := Refusal)
      { s with resp := some (.done .unmapped (zext Config.openBus)) }
    (n ≤ 0x7FFF → n < s.romLen → exec (.rdb a) s = ok (s.rom.read n)) ∧
    (n ≤ 0x7FFF → s.romLen ≤ n → exec (.rdb a) s = unmapped) ∧
    (0x8000 ≤ n → n ≤ 0x9FFF → exec (.rdb a) s = ok (s.vram.read (n % 0x2000))) ∧
    (0xA000 ≤ n → n ≤ 0xBFFF → exec (.rdb a) s = .next { s with resp := some (.error .unimpl) }) ∧
    (0xC000 ≤ n → n ≤ 0xFDFF → exec (.rdb a) s = ok (s.wram.read (n % 0x2000))) ∧
    (0xFE00 ≤ n → n ≤ 0xFE9F → exec (.rdb a) s = ok (s.oam.read (n % 0x100))) ∧
    (0xFEA0 ≤ n → n ≤ 0xFF00 → exec (.rdb a) s = unmapped) ∧
    (n = 0xFF01 → exec (.rdb a) s = .next { s with
      serial := (serialRead .sb s.serial).2, resp := some (.done .ok (zext (serialRead .sb s.serial).1)) }) ∧
    (n = 0xFF02 → exec (.rdb a) s = .next { s with
      serial := (serialRead .sc s.serial).2, resp := some (.done .ok (zext (serialRead .sc s.serial).1)) }) ∧
    (0xFF03 ≤ n → n ≤ 0xFF3F → exec (.rdb a) s = unmapped) ∧
    (n = 0xFF40 → exec (.rdb a) s = ok s.lcdc) ∧ (n = 0xFF41 → exec (.rdb a) s = ok s.stat) ∧
    (n = 0xFF42 → exec (.rdb a) s = ok s.scy) ∧ (n = 0xFF43 → exec (.rdb a) s = ok s.scx) ∧
    (n = 0xFF44 → exec (.rdb a) s = ok s.ly) ∧
    (n = 0xFF45 ∨ n = 0xFF46 → exec (.rdb a) s = .next { s with resp := some (.error .badreg) }) ∧
    (n = 0xFF47 → exec (.rdb a) s = ok s.bgp) ∧ (n = 0xFF48 → exec (.rdb a) s = ok s.obp0) ∧
    (n = 0xFF49 → exec (.rdb a) s = ok s.obp1) ∧ (n = 0xFF4A → exec (.rdb a) s = ok s.wy) ∧
    (n = 0xFF4B → exec (.rdb a) s = ok s.wx) ∧
    (0xFF4C ≤ n → n ≤ 0xFF7F → exec (.rdb a) s = unmapped) ∧
    (0xFF80 ≤ n → exec (.rdb a) s = ok (s.zram.read (n % 0x80)))

/-- WRB at every address, by the ranges of R50 (R111, R116 to R124): what it stores and its response. D6, D7, D8, D9, D10, D15
and D16 are the spec's decisions (log 10, 11, 22). -/
def Obligations.ByteWritesFollowTheirRegion : Prop :=
  ∀ (a : Addr) (v : Byte) (s : State),
    let n := a.toNat
    let done := some (Resp.done .ok 0)
    let unmapped := Host.Outcome.next (φ := Fault) (ρ := Refusal) { s with resp := some (.done .unmapped 0) }
    (n ≤ 0x7FFF → n < s.romLen → exec (.wrb a v) s = .next { s with rom := s.rom.write n v, resp := done }) ∧
    (n ≤ 0x7FFF → s.romLen ≤ n → exec (.wrb a v) s = unmapped) ∧
    (0x8000 ≤ n → n ≤ 0x9FFF → exec (.wrb a v) s = .next { s with vram := s.vram.write (n % 0x2000) v, resp := done }) ∧
    (0xA000 ≤ n → n ≤ 0xBFFF → exec (.wrb a v) s = .next { s with resp := some (.error .unimpl) }) ∧
    (0xC000 ≤ n → n ≤ 0xFDFF → exec (.wrb a v) s = .next { s with wram := s.wram.write (n % 0x2000) v, resp := done }) ∧
    (0xFE00 ≤ n → n ≤ 0xFE9F → exec (.wrb a v) s = .next { s with oam := s.oam.write (n % 0x100) v, resp := done }) ∧
    (0xFEA0 ≤ n → n ≤ 0xFF00 → exec (.wrb a v) s = unmapped) ∧
    (n = 0xFF01 → exec (.wrb a v) s = .next { s with serial := serialWrite .sb v s.serial, resp := done }) ∧
    (n = 0xFF02 → exec (.wrb a v) s = .next { s with serial := serialWrite .sc v s.serial, resp := done }) ∧
    (0xFF03 ≤ n → n ≤ 0xFF3F → exec (.wrb a v) s = unmapped) ∧
    (n = 0xFF40 → exec (.wrb a v) s = .next { s with lcdc := v, resp := done }) ∧
    (n = 0xFF41 → exec (.wrb a v) s = .next { s with stat := v, resp := done }) ∧
    (n = 0xFF42 → exec (.wrb a v) s = .next { s with scy := v, resp := done }) ∧
    (n = 0xFF43 → exec (.wrb a v) s = .next { s with scx := v, resp := done }) ∧
    (n = 0xFF44 → exec (.wrb a v) s = .next { s with resp := done }) ∧
    (n = 0xFF45 ∨ n = 0xFF46 → exec (.wrb a v) s = .next { s with resp := some (.error .badreg) }) ∧
    (n = 0xFF47 → exec (.wrb a v) s = .next { s with bgp := v, bgmap := palDecode v, resp := done }) ∧
    (n = 0xFF48 → exec (.wrb a v) s = .next { s with obp0 := v, obmap0 := palDecode v, resp := done }) ∧
    (n = 0xFF49 → exec (.wrb a v) s = .next { s with obp1 := v, obmap1 := palDecode v, resp := done }) ∧
    (n = 0xFF4A → exec (.wrb a v) s = .next { s with wy := v, resp := done }) ∧
    (n = 0xFF4B → exec (.wrb a v) s = .next { s with wx := v, resp := done }) ∧
    (0xFF4C ≤ n → n ≤ 0xFF7F → exec (.wrb a v) s = unmapped) ∧
    (0xFF80 ≤ n → exec (.wrb a v) s = .next { s with zram := s.zram.write (n % 0x80) v, resp := done })

/-- RDW is RDB at `a` and then RDB at `(a + 1) mod 0x10000` (R112): an error of the first ends it with the second byte not
read, an error of the second ends it, and otherwise it answers the two bytes little-endian, UNMAPPED when either was. The order,
the stop and the merge are the spec's decision D12, the wrap is D13 (log 22). At FF01 and FF02 a stub that is not the reference store
answers the two runs alike because they make the same accesses, the model's choice (log 9). -/
def Obligations.WordReadIsTwoByteReads : Prop :=
  ∀ (a : Addr) (s : State), ∃ t, exec (.rdb a) s = .next t ∧
    ((∃ e, t.resp = some (.error e) ∧ exec (.rdw a) s = .next t) ∨
     ∃ st0 d0, t.resp = some (.done st0 d0) ∧ ∃ u, exec (.rdb (a + 1)) t = .next u ∧
      ((∃ e, u.resp = some (.error e) ∧ exec (.rdw a) s = .next u) ∨
       ∃ st1 d1, u.resp = some (.done st1 d1) ∧ exec (.rdw a) s = .next { u with
         resp := some (.done (if st0 = .unmapped ∨ st1 = .unmapped then .unmapped else .ok)
           (BitVec.ofNat 16 (d1.toNat * 256 + d0.toNat))) }))

/-- WRW is WRB of the low byte at `a` and then WRB of the high byte at `(a + 1) mod 0x10000` (R113): an error of the first ends
it, an error of the second ends it with the low byte stored, and otherwise it answers OK, or UNMAPPED when either byte was. The
order, the stop and the merge are the spec's decision D12, the wrap is D13 (log 22). -/
def Obligations.WordWriteIsTwoByteWrites : Prop :=
  ∀ (a : Addr) (w : Half) (s : State), ∃ t, exec (.wrb a (BitVec.ofNat 8 (w.toNat % 256))) s = .next t ∧
    ((∃ e, t.resp = some (.error e) ∧ exec (.wrw a w) s = .next t) ∨
     ∃ st0, t.resp = some (.done st0 0) ∧ ∃ u, exec (.wrb (a + 1) (BitVec.ofNat 8 (w.toNat / 256))) t = .next u ∧
      ((∃ e, u.resp = some (.error e) ∧ exec (.wrw a w) s = .next u) ∨
       ∃ st1, u.resp = some (.done st1 0) ∧ exec (.wrw a w) s = .next { u with
         resp := some (.done (if st0 = .unmapped ∨ st1 = .unmapped then .unmapped else .ok) 0) }))

/-- The frame of WRB (R115): every cell but the one its address reaches, every register but the one it addresses (and that
register's map), the serial stub unless addressed, LY, CLK, IF, FB, the channel and the platform are as before. -/
def Obligations.ByteWriteChangesOnlyWhatItAddresses : Prop :=
  ∀ (a : Addr) (v : Byte) (s t : State), exec (.wrb a v) s = .next t →
    (∀ c, busCell a s ≠ some c → t.readCell c = s.readCell c) ∧
    (a ≠ 0xFF01 → a ≠ 0xFF02 → t.serial = s.serial) ∧
    (a ≠ 0xFF40 → t.lcdc = s.lcdc) ∧ (a ≠ 0xFF41 → t.stat = s.stat) ∧ (a ≠ 0xFF42 → t.scy = s.scy) ∧
    (a ≠ 0xFF43 → t.scx = s.scx) ∧ (a ≠ 0xFF47 → t.bgp = s.bgp ∧ t.bgmap = s.bgmap) ∧
    (a ≠ 0xFF48 → t.obp0 = s.obp0 ∧ t.obmap0 = s.obmap0) ∧ (a ≠ 0xFF49 → t.obp1 = s.obp1 ∧ t.obmap1 = s.obmap1) ∧
    (a ≠ 0xFF4A → t.wy = s.wy) ∧ (a ≠ 0xFF4B → t.wx = s.wx) ∧
    SameEngine s t ∧ SameChannel s t ∧ SamePlatform s t ∧ t.dresp = s.dresp ∧ t.byteRes = s.byteRes

/-- The frame of WRW: as that of WRB, for the two addresses `a` and `a + 1` (R113, R115). -/
def Obligations.WordWriteChangesOnlyWhatItAddresses : Prop :=
  ∀ (a : Addr) (w : Half) (s t : State), exec (.wrw a w) s = .next t →
    (∀ c, busCell a s ≠ some c → busCell (a + 1) s ≠ some c → t.readCell c = s.readCell c) ∧
    (region a ≠ .serial → region (a + 1) ≠ .serial → t.serial = s.serial) ∧
    (a ≠ 0xFF40 → a + 1 ≠ 0xFF40 → t.lcdc = s.lcdc) ∧
    (a ≠ 0xFF41 → a + 1 ≠ 0xFF41 → t.stat = s.stat) ∧
    (a ≠ 0xFF42 → a + 1 ≠ 0xFF42 → t.scy = s.scy) ∧
    (a ≠ 0xFF43 → a + 1 ≠ 0xFF43 → t.scx = s.scx) ∧
    (a ≠ 0xFF47 → a + 1 ≠ 0xFF47 → t.bgp = s.bgp ∧ t.bgmap = s.bgmap) ∧
    (a ≠ 0xFF48 → a + 1 ≠ 0xFF48 → t.obp0 = s.obp0 ∧ t.obmap0 = s.obmap0) ∧
    (a ≠ 0xFF49 → a + 1 ≠ 0xFF49 → t.obp1 = s.obp1 ∧ t.obmap1 = s.obmap1) ∧
    (a ≠ 0xFF4A → a + 1 ≠ 0xFF4A → t.wy = s.wy) ∧
    (a ≠ 0xFF4B → a + 1 ≠ 0xFF4B → t.wx = s.wx) ∧
    SameEngine s t ∧ SameChannel s t ∧ SamePlatform s t ∧ t.dresp = s.dresp ∧ t.byteRes = s.byteRes

/-- RDB, RDW, IFR and the reserved code change nothing but the response, and the two reads the serial stub's own state, which the
reference store keeps too (R58, R92, R115, R152). -/
def Obligations.ReadsChangeOnlyTheResponse : Prop :=
  ∀ (s t : State),
    (∀ a, exec (.rdb a) s = .next t → t = { s with resp := t.resp, serial := t.serial } ∧
      (region a ≠ .serial → t.serial = s.serial)) ∧
    (∀ a, exec (.rdw a) s = .next t → t = { s with resp := t.resp, serial := t.serial } ∧
      (region a ≠ .serial → region (a + 1) ≠ .serial → t.serial = s.serial)) ∧
    (∀ a sb sc, s.serial = .reference sb sc → exec (.rdb a) s = .next t ∨ exec (.rdw a) s = .next t → t.serial = s.serial) ∧
    (exec .ifr s = .next t → t = { s with resp := t.resp }) ∧ (exec .reservedOp7 s = .next t → t = { s with resp := t.resp })

/-- A byte written where the bus reaches a cell is read back there (R54, R57). -/
def Obligations.WrittenByteIsReadBack : Prop :=
  ∀ (a : Addr) (v : Byte) (s : State) (c : Cell), StoresOk s → busCell a s = some c →
    ∃ t, exec (.wrb a v) s = .next t ∧ exec (.rdb a) t = .next { t with resp := some (.done .ok (zext v)) }

/-- A word written is read back, at every address whose two bytes are cells, even or odd, across regions and across the top of
the space (R53, R55; D13, D14 are the spec's decisions, log 22). -/
def Obligations.WrittenWordIsReadBack : Prop :=
  ∀ (a : Addr) (w : Half) (s : State) (c0 c1 : Cell), StoresOk s → busCell a s = some c0 → busCell (a + 1) s = some c1 →
    ∃ t, exec (.wrw a w) s = .next t ∧ t.resp = some (.done .ok 0) ∧
      exec (.rdw a) t = .next { t with resp := some (.done .ok w) }

/-- Cartridge RAM: every access answers ERR_UNIMPL and stores nothing (R118). -/
def Obligations.CartridgeRamAlwaysErrs : Prop :=
  ∀ (a : Addr) (v : Byte) (s : State), 0xA000 ≤ a.toNat → a.toNat ≤ 0xBFFF →
    read1 a s = (.error .unimpl, s) ∧ write1 a v s = (.error .unimpl, s) ∧
    exec (.rdb a) s = .next { s with resp := some (.error .unimpl) } ∧
    exec (.wrb a v) s = .next { s with resp := some (.error .unimpl) }

/-- Video memory is read and written at index `a & 0x1FFF` in every state, whatever LCDC and LY are (R117). -/
def Obligations.VideoMemoryIsAlwaysAccessible : Prop :=
  ∀ (a : Addr) (v : Byte) (s : State), 0x8000 ≤ a.toNat → a.toNat ≤ 0x9FFF →
    read1 a s = (.value .ok (s.vram.read (a &&& 0x1FFF).toNat), s) ∧
    write1 a v s = (.done .ok, { s with vram := s.vram.write (a &&& 0x1FFF).toNat v }) ∧
    exec (.rdb a) s = .next { s with resp := some (.done .ok (zext (s.vram.read (a &&& 0x1FFF).toNat))) } ∧
    exec (.wrb a v) s = .next { s with vram := s.vram.write (a &&& 0x1FFF).toNat v, resp := some (.done .ok 0) }

/-! ### Display registers and the interrupt flag byte -/

/-- LCDC, STAT, SCY, SCX, WY and WX read as the byte they hold and store all eight bits written, from the bus and as register
rows (R140, R141, R142, R143, R150, R151). As operations of their own the rows are the model's (log 6, 8). -/
def Obligations.RawRegistersStoreEveryBit : Prop :=
  ∀ (v : Byte) (s : State),
    let ok := some (ByteRes.wrote (.done .ok))
    let done := some (Resp.done .ok 0)
    exec (.regFF40 .read) s = .next { s with byteRes := some (.read (.value .ok s.lcdc)) } ∧
    exec (.regFF41 .read) s = .next { s with byteRes := some (.read (.value .ok s.stat)) } ∧
    exec (.regFF42 .read) s = .next { s with byteRes := some (.read (.value .ok s.scy)) } ∧
    exec (.regFF43 .read) s = .next { s with byteRes := some (.read (.value .ok s.scx)) } ∧
    exec (.regFF4A .read) s = .next { s with byteRes := some (.read (.value .ok s.wy)) } ∧
    exec (.regFF4B .read) s = .next { s with byteRes := some (.read (.value .ok s.wx)) } ∧
    exec (.regFF40 (.write v)) s = .next { s with lcdc := v, byteRes := ok } ∧
    exec (.regFF41 (.write v)) s = .next { s with stat := v, byteRes := ok } ∧
    exec (.regFF42 (.write v)) s = .next { s with scy := v, byteRes := ok } ∧
    exec (.regFF43 (.write v)) s = .next { s with scx := v, byteRes := ok } ∧
    exec (.regFF4A (.write v)) s = .next { s with wy := v, byteRes := ok } ∧
    exec (.regFF4B (.write v)) s = .next { s with wx := v, byteRes := ok } ∧
    exec (.wrb 0xFF40 v) s = .next { s with lcdc := v, resp := done } ∧
    exec (.wrb 0xFF41 v) s = .next { s with stat := v, resp := done } ∧
    exec (.wrb 0xFF42 v) s = .next { s with scy := v, resp := done } ∧
    exec (.wrb 0xFF43 v) s = .next { s with scx := v, resp := done } ∧
    exec (.wrb 0xFF4A v) s = .next { s with wy := v, resp := done } ∧
    exec (.wrb 0xFF4B v) s = .next { s with wx := v, resp := done } ∧
    exec (.rdb 0xFF40) s = .next { s with resp := some (.done .ok (zext s.lcdc)) } ∧
    exec (.rdb 0xFF41) s = .next { s with resp := some (.done .ok (zext s.stat)) } ∧
    exec (.rdb 0xFF42) s = .next { s with resp := some (.done .ok (zext s.scy)) } ∧
    exec (.rdb 0xFF43) s = .next { s with resp := some (.done .ok (zext s.scx)) } ∧
    exec (.rdb 0xFF4A) s = .next { s with resp := some (.done .ok (zext s.wy)) } ∧
    exec (.rdb 0xFF4B) s = .next { s with resp := some (.done .ok (zext s.wx)) }

/-- LY: a read gives the current line, always 0..153, and a write is discarded with status OK and changes nothing (R144), from
the bus and as the register row. -/
def Obligations.CurrentLineIgnoresWrites : Prop :=
  ∀ (v : Byte) (s : State),
    exec (.rdb 0xFF44) s = .next { s with resp := some (.done .ok (zext s.ly)) } ∧
    exec (.wrb 0xFF44 v) s = .next { s with resp := some (.done .ok 0) } ∧
    exec (.regFF44 .read) s = .next { s with byteRes := some (.read (.value .ok s.ly)) } ∧
    exec (.regFF44 (.write v)) s = .next { s with byteRes := some (.wrote (.done .ok)) } ∧
    (s.Inv → ∃ b, exec (.rdb 0xFF44) s = .next { s with resp := some (.done .ok b) } ∧ b.toNat ≤ 153)

/-- BGP: a write stores the byte and recomputes BGMAP on every write; a read gives the byte (R147). -/
def Obligations.BackgroundPaletteWriteRecomputesItsMap : Prop :=
  ∀ (v : Byte) (s : State),
    exec (.rdb 0xFF47) s = .next { s with resp := some (.done .ok (zext s.bgp)) } ∧
    exec (.wrb 0xFF47 v) s = .next { s with bgp := v, bgmap := palDecode v, resp := some (.done .ok 0) } ∧
    exec (.regFF47 .read) s = .next { s with byteRes := some (.read (.value .ok s.bgp)) } ∧
    exec (.regFF47 (.write v)) s = .next { s with bgp := v, bgmap := palDecode v, byteRes := some (.wrote (.done .ok)) }

/-- OBP0 and OBP1: a write stores the byte and recomputes that palette's own map; a read gives the byte (R148, R149). The
recompute is the spec's decision D16 (log 22). -/
def Obligations.ObjectPaletteWritesRecomputeTheirMaps : Prop :=
  ∀ (v : Byte) (s : State),
    exec (.regFF48 .read) s = .next { s with byteRes := some (.read (.value .ok s.obp0)) } ∧
    exec (.regFF49 .read) s = .next { s with byteRes := some (.read (.value .ok s.obp1)) } ∧
    exec (.regFF48 (.write v)) s = .next { s with obp0 := v, obmap0 := palDecode v, byteRes := some (.wrote (.done .ok)) } ∧
    exec (.regFF49 (.write v)) s = .next { s with obp1 := v, obmap1 := palDecode v, byteRes := some (.wrote (.done .ok)) } ∧
    exec (.wrb 0xFF48 v) s = .next { s with obp0 := v, obmap0 := palDecode v, resp := some (.done .ok 0) } ∧
    exec (.wrb 0xFF49 v) s = .next { s with obp1 := v, obmap1 := palDecode v, resp := some (.done .ok 0) }

/-- FF45 and FF46 answer ERR_BADREG on read and on write and change nothing (R145); for FF46 that is the spec's decision D15
(log 22), which leaves no transfer. -/
def Obligations.AbsentRegistersAnswerBadreg : Prop :=
  ∀ (v : Byte) (s : State),
    let bad := Host.Outcome.next (φ := Fault) (ρ := Refusal) { s with resp := some (.error .badreg) }
    exec (.rdb 0xFF45) s = bad ∧ exec (.rdb 0xFF46) s = bad ∧ exec (.wrb 0xFF45 v) s = bad ∧ exec (.wrb 0xFF46 v) s = bad ∧
    exec (.regFF45 .read) s = .next { s with byteRes := some (.read (.error .badreg)) } ∧
    exec (.regFF46 .read) s = .next { s with byteRes := some (.read (.error .badreg)) } ∧
    exec (.regFF45 (.write v)) s = .next { s with byteRes := some (.wrote (.error .badreg)) } ∧
    exec (.regFF46 (.write v)) s = .next { s with byteRes := some (.wrote (.error .badreg)) }

/-- IFR gives IF and does not clear it; IFW stores all eight bits (R152, R153); operation code 7 answers ERR_BADOP and changes no
state (R92). The three are the spec's decisions D22 and D25. -/
def Obligations.SidebandAndReservedOperations : Prop :=
  ∀ (v : Byte) (s : State),
    exec .ifr s = .next { s with resp := some (.done .ok (zext s.ifl)) } ∧
    exec (.ifw v) s = .next { s with ifl := v, resp := some (.done .ok 0) } ∧
    exec .reservedOp7 s = .next { s with resp := some (.error .badop) }

/-! ### The address rows -/

/-- The rows of the five stores read and write the cell their address reaches (R116, R117, R119, R120, R123). As operations of
their own the rows are the model's (log 6, 8); D6 to D9 are the spec's decisions. -/
def Obligations.StoreRowsAccessTheirCell : Prop :=
  ∀ (a : Addr) (v : Byte) (s : State),
    let got := fun b : Byte => Host.Outcome.next (φ := Fault) (ρ := Refusal)
      { s with byteRes := some (.read (.value .ok b)) }
    let ok := some (ByteRes.wrote (.done .ok))
    let putWram := Host.Outcome.next (φ := Fault) (ρ := Refusal)
      { s with wram := s.wram.write (a.toNat % 0x2000) v, byteRes := ok }
    let putOam := Host.Outcome.next (φ := Fault) (ρ := Refusal)
      { s with oam := s.oam.write (a.toNat % 0x100) v, byteRes := ok }
    (a.toNat < s.romLen → exec (.rom0000 a .read) s = got (s.rom.read a.toNat) ∧
      exec (.rom0000 a (.write v)) s = .next { s with rom := s.rom.write a.toNat v, byteRes := ok }) ∧
    exec (.vram8000 a .read) s = got (s.vram.read (a.toNat % 0x2000)) ∧
    exec (.vram8000 a (.write v)) s = .next { s with vram := s.vram.write (a.toNat % 0x2000) v, byteRes := ok } ∧
    exec (.wramC000 a .read) s = got (s.wram.read (a.toNat % 0x2000)) ∧ exec (.wramC000 a (.write v)) s = putWram ∧
    exec (.wramE000 a .read) s = got (s.wram.read (a.toNat % 0x2000)) ∧ exec (.wramE000 a (.write v)) s = putWram ∧
    exec (.wramF000 a .read) s = got (s.wram.read (a.toNat % 0x2000)) ∧ exec (.wramF000 a (.write v)) s = putWram ∧
    exec (.wramF800 a .read) s = got (s.wram.read (a.toNat % 0x2000)) ∧ exec (.wramF800 a (.write v)) s = putWram ∧
    exec (.wramFC00 a .read) s = got (s.wram.read (a.toNat % 0x2000)) ∧ exec (.wramFC00 a (.write v)) s = putWram ∧
    exec (.oamFE00 a .read) s = got (s.oam.read (a.toNat % 0x100)) ∧ exec (.oamFE00 a (.write v)) s = putOam ∧
    exec (.oamFE80 a .read) s = got (s.oam.read (a.toNat % 0x100)) ∧ exec (.oamFE80 a (.write v)) s = putOam ∧
    exec (.zramFF80 a .read) s = got (s.zram.read (a.toNat % 0x80)) ∧
    exec (.zramFF80 a (.write v)) s = .next { s with zram := s.zram.write (a.toNat % 0x80) v, byteRes := ok }

/-- The rows with no storage behind them: cartridge RAM errs (R118); an unmapped block, and a ROM address at or above ROM_LEN,
read as OPEN_BUS and discard writes, with status UNMAPPED (R116, R124; D9, D10 are the spec's decisions, log 10). -/
def Obligations.RowsWithoutStorageStoreNothing : Prop :=
  ∀ (a : Addr) (v : Byte) (s : State),
    let got := Host.Outcome.next (φ := Fault) (ρ := Refusal)
      { s with byteRes := some (.read (.value .unmapped Config.openBus)) }
    let put := Host.Outcome.next (φ := Fault) (ρ := Refusal) { s with byteRes := some (.wrote (.done .unmapped)) }
    exec (.cramA000 a .read) s = .next { s with byteRes := some (.read (.error .unimpl)) } ∧
    exec (.cramA000 a (.write v)) s = .next { s with byteRes := some (.wrote (.error .unimpl)) } ∧
    (s.romLen ≤ a.toNat → exec (.rom0000 a .read) s = got ∧ exec (.rom0000 a (.write v)) s = put) ∧
    exec (.unmappedFEA0 a .read) s = got ∧ exec (.unmappedFEA0 a (.write v)) s = put ∧
    exec (.unmappedFEC0 a .read) s = got ∧ exec (.unmappedFEC0 a (.write v)) s = put ∧
    exec (.unmappedFF00 .read) s = got ∧ exec (.unmappedFF00 (.write v)) s = put ∧
    exec (.unmappedFF03 .read) s = got ∧ exec (.unmappedFF03 (.write v)) s = put ∧
    exec (.unmappedFF04 a .read) s = got ∧ exec (.unmappedFF04 a (.write v)) s = put ∧
    exec (.unmappedFF08 a .read) s = got ∧ exec (.unmappedFF08 a (.write v)) s = put ∧
    exec (.unmappedFF10 a .read) s = got ∧ exec (.unmappedFF10 a (.write v)) s = put ∧
    exec (.unmappedFF20 a .read) s = got ∧ exec (.unmappedFF20 a (.write v)) s = put ∧
    exec (.unmappedFF4C a .read) s = got ∧ exec (.unmappedFF4C a (.write v)) s = put ∧
    exec (.unmappedFF50 a .read) s = got ∧ exec (.unmappedFF50 a (.write v)) s = put ∧
    exec (.unmappedFF60 a .read) s = got ∧ exec (.unmappedFF60 a (.write v)) s = put

/-- The serial rows forward to the stub and answer OK (R121); with the reference store of D21 FF01 and FF02 are two plain bytes
(log 9). The two display blocks forward to the engine's register accessors (R122): a row access in them is the access of the
register row at the same address. -/
def Obligations.SerialAndDisplayRowsForward : Prop :=
  (∀ (v sb sc : Byte) (s : State),
    exec (.serialFF01 .read) s = .next { s with
      serial := (serialRead .sb s.serial).2, byteRes := some (.read (.value .ok (serialRead .sb s.serial).1)) } ∧
    exec (.serialFF02 .read) s = .next { s with
      serial := (serialRead .sc s.serial).2, byteRes := some (.read (.value .ok (serialRead .sc s.serial).1)) } ∧
    exec (.serialFF01 (.write v)) s = .next { s with
      serial := serialWrite .sb v s.serial, byteRes := some (.wrote (.done .ok)) } ∧
    exec (.serialFF02 (.write v)) s = .next { s with
      serial := serialWrite .sc v s.serial, byteRes := some (.wrote (.done .ok)) } ∧
    serialRead .sb (.reference sb sc) = (sb, .reference sb sc) ∧ serialRead .sc (.reference sb sc) = (sc, .reference sb sc) ∧
    serialWrite .sb v (.reference sb sc) = .reference v sc ∧ serialWrite .sc v (.reference sb sc) = .reference sb v) ∧
  ∀ (a : Addr) (acc : ByteAccess) (s : State) (r : RegRow), findRegRow a = some r →
    (inBlock a 0xFFF8 0xFF40 = true → ∃ t, exec (.displayFF40 a acc) s = .next t ∧ exec (r.op acc) s = .next t) ∧
    (inBlock a 0xFFFC 0xFF48 = true → ∃ t, exec (.displayFF48 a acc) s = .next t ∧ exec (r.op acc) s = .next t)

/-- The row an address decodes to does to the state what RDB and WRB do there, and returns what they answer (R100, R114). As
operations of their own the rows are the model's (log 6, 8). At FF01 and FF02 a stub that is not the reference store answers the row
and RDB alike because the two runs make the same access, the model's choice (log 9). -/
def Obligations.AddressRowsAgreeWithTheBus : Prop :=
  ∀ (a : Addr) (v : Byte) (s : State) (r : AddrRow), findAddrRow a = some r →
    (∃ t u, exec (r.op a .read) s = .next t ∧ exec (.rdb a) s = .next u ∧
      ({ t with byteRes := s.byteRes, resp := s.resp } : State) = { u with resp := s.resp } ∧
      ((∃ st b, t.byteRes = some (.read (.value st b)) ∧ u.resp = some (.done st (zext b))) ∨
       ∃ e, t.byteRes = some (.read (.error e)) ∧ u.resp = some (.error e))) ∧
    ∃ t u, exec (r.op a (.write v)) s = .next t ∧ exec (.wrb a v) s = .next u ∧
      ({ t with byteRes := s.byteRes, resp := s.resp } : State) = { u with resp := s.resp } ∧
      ((∃ st, t.byteRes = some (.wrote (.done st)) ∧ u.resp = some (.done st 0)) ∨
       ∃ e, t.byteRes = some (.wrote (.error e)) ∧ u.resp = some (.error e))

/-! ### Cycle advance -/

/-- ADV without a line step. With LCDC bit 7 clear it is a no-op with status OK, whatever the count (R161); ADV 0 is one too, by the
invariant CLK < 114 (R169); with the bit set and CLK + n still below 114 it adds n to CLK, answers OK and does nothing else
(R160). -/
def Obligations.AdvanceShortOfALineMakesNoLineStep : Prop :=
  ∀ (n : Nat) (s : State),
    (s.lcdc.getLsbD 7 = false → exec (.adv n) s = .next { s with resp := some (.done .ok 0) }) ∧
    (s.clk < 114 → exec (.adv 0) s = .next { s with resp := some (.done .ok 0) }) ∧
    (s.lcdc.getLsbD 7 = true → s.clk + n < 114 →
      exec (.adv n) s = .next { s with clk := s.clk + n, resp := some (.done .ok 0) })

/-- LINE_STEP (R162), through an ADV that makes exactly one: 114 is taken from CLK, LY moves on modulo 154, the new line is
rendered if it is visible, and landing on line 144 sets IF bit 0 and hands the frame off, which delivers, drops or holds (R191,
R192). -/
def Obligations.OneLineOfCyclesIsOneLineStep : Prop :=
  ∀ (n : Nat) (s : State), s.lcdc.getLsbD 7 = true → s.hold = none → 114 ≤ s.clk + n → s.clk + n < 228 →
    let ly := (s.ly.toNat + 1) % 154
    let s1 : State := { s with clk := s.clk + n - 114, ly := BitVec.ofNat 8 ly }
    (ly ≤ 143 → exec (.adv n) s = .next { renderLine s1 ly with resp := some (.done .ok 0) }) ∧
    (145 ≤ ly → exec (.adv n) s = .next { s1 with resp := some (.done .ok 0) }) ∧
    (ly = 144 → s.connected = true → s.queue = [] → exec (.adv n) s = .next { s1 with
      ifl := s.ifl ||| 0x01, queue := [s.fb], events := s.events ++ [.deliver s.fb], fb := [],
      resp := some (.done .ok 0) }) ∧
    (ly = 144 → s.connected = true → s.queue ≠ [] → exec (.adv n) s = .next { s1 with
      ifl := s.ifl ||| 0x01, hold := some ⟨false⟩, resp := none }) ∧
    (ly = 144 → s.connected = false → exec (.adv n) s = .next { s1 with
      ifl := s.ifl ||| 0x01, events := s.events ++ [.drop], fb := [], resp := some (.done .frameDropped 0) })

/-- The counting law (R167): an ADV that does not hold leaves CLK at (CLK + n) mod 114 and LY at (LY + (CLK + n) div 114)
mod 154; one that holds has done no more than that. Every ADV answers a next state. -/
def Obligations.LinesAdvanceByCyclesOverOneHundredFourteen : Prop :=
  ∀ (n : Nat) (s : State), s.lcdc.getLsbD 7 = true → s.hold = none → s.ly.toNat < 154 →
    ∃ t, exec (.adv n) s = .next t ∧
      (t.hold = none → t.clk = (s.clk + n) % 114 ∧ t.ly.toNat = (s.ly.toNat + (s.clk + n) / 114) % 154) ∧
      (t.hold ≠ none → ∃ k, k ≤ (s.clk + n) / 114 ∧ t.clk = s.clk + n - 114 * k ∧ t.ly.toNat = 144 ∧
        (s.ly.toNat + k) % 154 = 144)

/-- The split of a number of cycles into operands does not matter (R160, R167): after a first ADV that does not hold, a second one
leaves the state that one ADV of the sum leaves: FB, LY, CLK, IF, Q and the history are the same. If the second completes the sum
does, and a drop in either is a drop of the whole; if the second holds (R192) the sum holds there too, with a drop of either behind
it. That a drop is told by FRAME_DROPPED is the spec's decision D2. -/
def Obligations.SplittingTheCyclesChangesNothing : Prop :=
  ∀ (m n : Nat) (s t u : State), s.lcdc.getLsbD 7 = true → s.hold = none →
    exec (.adv m) s = .next t → t.hold = none → exec (.adv n) t = .next u →
    ∃ w, exec (.adv (m + n)) s = .next w ∧
      ({ w with resp := none, hold := none } : State) = { u with resp := none, hold := none } ∧
      (u.hold = none → w.hold = none ∧
        (w.resp = some (.done .frameDropped 0) ↔
          t.resp = some (.done .frameDropped 0) ∨ u.resp = some (.done .frameDropped 0)) ∧
        (w.resp = some (.done .ok 0) ↔ t.resp = some (.done .ok 0) ∧ u.resp = some (.done .ok 0))) ∧
      (∀ h, u.hold = some h → u.resp = none ∧ w.resp = none ∧
        ∃ h', w.hold = some h' ∧ (h'.dropped = true ↔ t.resp = some (.done .frameDropped 0) ∨ h.dropped = true))

/-- One hand-off for every entry into line 144 (R168, R190): an ADV that does not hold appends as many events as it has entries,
and from CLK < 114 at most one when n <= 17556. -/
def Obligations.OneHandOffForEveryEntryOfLine144 : Prop :=
  ∀ (n : Nat) (s t : State), s.lcdc.getLsbD 7 = true → s.hold = none → s.ly.toNat < 154 →
    exec (.adv n) s = .next t → t.hold = none →
    t.events.length = s.events.length + vblankEntries s.ly.toNat ((s.clk + n) / 114) ∧
    (s.clk < 114 → n ≤ 17556 → vblankEntries s.ly.toNat ((s.clk + n) / 114) ≤ 1)

/-- IF after an ADV that does not hold (R164): bit 0 is set exactly when line 144 was entered, and no other bit changes. -/
def Obligations.VerticalBlankFlagIsSetOnEntryOnly : Prop :=
  ∀ (n : Nat) (s t : State), s.lcdc.getLsbD 7 = true → s.hold = none → s.ly.toNat < 154 →
    exec (.adv n) s = .next t → t.hold = none →
    t.ifl = if vblankEntries s.ly.toNat ((s.clk + n) / 114) = 0 then s.ifl else s.ifl ||| 0x01

/-- Without a receiver ADV never holds: each entry into line 144 drops its frame, the status tells of it, and LY and CLK move as
ever (R193, R210; D2 and D23 are the spec's decisions). -/
def Obligations.AdvanceWithoutReceiverDropsAndGoesOn : Prop :=
  ∀ (n : Nat) (s : State), s.lcdc.getLsbD 7 = true → s.hold = none → s.ly.toNat < 154 → s.connected = false →
    let k := vblankEntries s.ly.toNat ((s.clk + n) / 114)
    ∃ t, exec (.adv n) s = .next t ∧ t.hold = none ∧ t.queue = s.queue ∧ t.events = s.events ++ List.replicate k .drop ∧
      t.resp = some (.done (if k = 0 then .ok else .frameDropped) 0) ∧
      t.clk = (s.clk + n) % 114 ∧ t.ly.toNat = (s.ly.toNat + (s.clk + n) / 114) % 154

/-- The frame of ADV: the bus's stores, the display registers, the maps, the serial stub, the connection and the platform are as
before; only LY, CLK, IF, FB, the channel, the history and the response may change (R41, R175, R191). -/
def Obligations.AdvanceChangesOnlyTheEngineAndTheChannel : Prop :=
  ∀ (n : Nat) (s t : State), exec (.adv n) s = .next t →
    SameStores s t ∧ SameRegisters s t ∧ t.serial = s.serial ∧ t.connected = s.connected ∧ SamePlatform s t ∧
    t.dresp = s.dresp ∧ t.byteRes = s.byteRes

/-- ADV reads no sprite and no window state (R188): two states that agree on the engine, the channel, LCDC bits 7, 4 and 3, SCY,
SCX, VRAM and BGMAP, whatever OAM, OBP0, OBP1, their maps, WX, WY, STAT and the other LCDC bits are, get the same lines, the same
frames and the same response. -/
def Obligations.AdvanceReadsNoSpriteOrWindowState : Prop :=
  ∀ (n : Nat) (s t : State), SameEngine s t → SameChannel s t →
    t.lcdc.getLsbD 7 = s.lcdc.getLsbD 7 → t.lcdc.getLsbD 4 = s.lcdc.getLsbD 4 → t.lcdc.getLsbD 3 = s.lcdc.getLsbD 3 →
    t.scy = s.scy → t.scx = s.scx → t.vram = s.vram → t.bgmap = s.bgmap →
    ∃ s' t', exec (.adv n) s = .next s' ∧ exec (.adv n) t = .next t' ∧
      SameEngine s' t' ∧ SameChannel s' t' ∧ t'.resp = s'.resp

/-! ### Back-pressure -/

/-- ADV holds at a full, connected channel (R192): it stops at the first entry of line 144 with LY = 144, IF bit 0 set, CLK
reduced, no response, and the channel, the history and the operation's `dropped` untouched. -/
def Obligations.AdvanceHoldsAtAFullChannel : Prop :=
  ∀ (n : Nat) (s : State), s.lcdc.getLsbD 7 = true → s.hold = none → s.ly.toNat < 154 → s.connected = true → s.queue ≠ [] →
    let k := (297 - s.ly.toNat) % 154 + 1
    114 * k ≤ s.clk + n →
    ∃ t, exec (.adv n) s = .next t ∧ t.hold = some ⟨false⟩ ∧ t.ly = 144 ∧ t.ifl = s.ifl ||| 0x01 ∧
      t.clk = s.clk + n - 114 * k ∧ t.resp = none ∧ t.queue = s.queue ∧ t.events = s.events

/-- A held ADV waits for the consumer (R192): with nothing presented nothing happens, and an entry `proceed` changes nothing but the
input list; TAKE makes room and DISC disconnects, the ADV still in progress. An idle step and the entry `proceed` are the model's
choice (log 3, 4). -/
def Obligations.HeldAdvanceWaitsForTakeOrDisc : Prop :=
  ∀ (s : State), s.hold ≠ none → s.connected = true → s.queue ≠ [] →
    (s.inputs = [] → step s = .next s) ∧
    (∀ rest, s.inputs = .proceed :: rest → step s = .next { s with inputs := rest }) ∧
    (s.queue.length = 1 → ∃ t, exec .take s = .next t ∧ t.queue = [] ∧ t.hold = s.hold) ∧
    (∃ t, exec .disc s = .next t ∧ t.connected = false ∧ t.hold = s.hold)

/-- A held ADV whose hold is lifted goes on at the next step (R191, R192, R193, R201): it delivers, or drops when there is no
receiver, and then does what an ADV of the cycles left on CLK does from CLK = 0, so that it may render, enter line 144 again and hold
again. It answers FRAME_DROPPED when any hand-off of the operation dropped (D2), and with less than a line left it answers at once.
The display-enable bit, tested on entry only (R160), is set in every held state (the statement of the invariants). The step is one
with nothing presented, with an entry `proceed`, or with a processor-port request that is accepted only after it, the model's choice
(log 3, 4); Q empty is room because CHAN_CAP is 1 (D23, log 12). -/
def Obligations.LiftedAdvanceGoesOnWithTheCyclesLeft : Prop :=
  ∀ (s : State) (h : HeldAdv) (rest : List Input), s.hold = some h → s.lcdc.getLsbD 7 = true →
    ((s.inputs = [] ∧ rest = []) ∨ s.inputs = .proceed :: rest ∨
      (∃ r q, s.inputs = .request r :: q ∧ s.phase = .run ∧ onDisplayPort r = false ∧ rest = s.inputs)) →
    ((s.connected = true ∧ s.queue = []) ∨ s.connected = false) →
    let s1 : State := { s with
      hold := none, queue := if s.connected then [s.fb] else s.queue,
      events := s.events ++ [if s.connected then .deliver s.fb else .drop], fb := [], inputs := rest }
    let dropped := h.dropped || !s.connected
    (s.clk < 114 → step s = .next { s1 with resp := some (.done (if dropped then .frameDropped else .ok) 0) }) ∧
    ∃ t u, step s = .next t ∧ exec (.adv s.clk) { s1 with clk := 0 } = .next u ∧
      ({ t with resp := none, hold := none } : State) = { u with resp := none, hold := none } ∧
      (u.hold = none → t.hold = none ∧
        t.resp = some (.done (if dropped = true ∨ u.resp = some (.done .frameDropped 0) then .frameDropped else .ok) 0)) ∧
      (∀ h', u.hold = some h' → t.resp = none ∧ t.hold = some ⟨dropped || h'.dropped⟩)

/-- A lifted ADV keeps counting (R160, R167, R168): if it completes, LY and CLK are those of all its line steps, and the history has
its own hand-off and one for every further entry of line 144; if it holds again (R250), it stands at line 144 after `j` line steps,
whole lines taken from CLK, and the history has its own hand-off and one for every entry of line 144 but the last. IF bit 0, set in
every held state, stays set and no other bit changes. The step is one of the three of the statement above. -/
def Obligations.LiftedAdvanceCountsItsLines : Prop :=
  ∀ (s : State) (h : HeldAdv), s.Inv → s.hold = some h →
    (s.inputs = [] ∨ (∃ rest, s.inputs = .proceed :: rest) ∨
      (∃ r rest, s.inputs = .request r :: rest ∧ onDisplayPort r = false)) →
    (s.queue = [] ∨ s.connected = false) →
    ∃ t, step s = .next t ∧ t.ifl = s.ifl ∧ t.ifl.getLsbD 0 = true ∧
      (t.hold = none → t.clk = s.clk % 114 ∧ t.ly.toNat = (s.ly.toNat + s.clk / 114) % 154 ∧
        t.events.length = s.events.length + 1 + vblankEntries s.ly.toNat (s.clk / 114)) ∧
      (t.hold ≠ none → ∃ j, 0 < j ∧ j ≤ s.clk / 114 ∧ t.clk = s.clk - 114 * j ∧ t.ly.toNat = 144 ∧
        (s.ly.toNat + j) % 154 = 144 ∧ t.events.length = s.events.length + 1 + vblankEntries s.ly.toNat (j - 1))

/-! ### The display port and the channel -/

/-- TAKE gives the frame at the head of Q and removes it, answers EMPTY on an empty Q and CLOSED after DISC (R195); DISC
disconnects, discards what is queued and answers DONE, and CLOSED when done again (R196). Nothing else changes (R219). The display
port is the spec's decisions D3 and D23. -/
def Obligations.DisplayPortOperations : Prop :=
  ∀ s : State,
    (s.connected = false → exec .take s = .next { s with dresp := some .closed }) ∧
    (s.connected = true → s.queue = [] → exec .take s = .next { s with dresp := some .empty }) ∧
    (∀ f q, s.connected = true → s.queue = f :: q → exec .take s = .next { s with queue := q, dresp := some (.frame f) }) ∧
    (s.connected = true → exec .disc s = .next { s with connected := false, queue := [], dresp := some .done }) ∧
    (s.connected = false → exec .disc s = .next { s with dresp := some .closed })

/-- No operation reconnects, and none but DISC disconnects (R35, R196). -/
def Obligations.OnlyDiscChangesTheConnection : Prop :=
  ∀ (i : Instr) (s t : State), exec i s = .next t → t.connected = s.connected ∨ (i = .disc ∧ t.connected = false)

/-- A frame handed off is never changed (R61, R197, the spec's decision D20): every operation but TAKE and DISC leaves the queued
frames and the history as they are, and can only append. -/
def Obligations.QueuedFramesAreNeverChanged : Prop :=
  ∀ (i : Instr) (s t : State), exec i s = .next t → s.events <+: t.events ∧
    (i ≠ .take → i ≠ .disc → s.queue <+: t.queue)

/-! ### Rules about the whole machine -/

/-- Only ADV moves LY and CLK, renders, hands off or starts a hold (R11, R115, R155, R165). -/
def Obligations.OnlyAdvanceMovesTheSequencer : Prop :=
  ∀ (i : Instr) (s t : State), (∀ n, i ≠ .adv n) → exec i s = .next t →
    t.ly = s.ly ∧ t.clk = s.clk ∧ t.fb = s.fb ∧ t.events = s.events ∧ t.hold = s.hold

/-- Only IFW writes IF freely; ADV only sets bit 0, and nothing else changes IF (R22, R213, R214). -/
def Obligations.OnlyIfwClearsTheInterruptFlag : Prop :=
  ∀ (i : Instr) (s t : State), (∀ v, i ≠ .ifw v) → exec i s = .next t →
    t.ifl = s.ifl ∨ (t.ifl = s.ifl ||| 0x01 ∧ ∃ n, i = .adv n)

/-- No operation changes ROM_LEN or PHASE, or takes anything from what is presented (R30, R36). -/
def Obligations.NoOperationChangesThePlatform : Prop :=
  ∀ (i : Instr) (s t : State), exec i s = .next t → SamePlatform s t

/-- Every operation, once it is accepted, answers a next state: no status stops the block (R205, R225). The statement speaks of
`exec`, which has no acceptance of its own and so runs in every state, the model's choice (log 26); that a request in PHASE RESET or
FAILED, or during a hold, has no step is the statement about acceptance. -/
def Obligations.EveryOperationAnswersANextState : Prop :=
  ∀ (i : Instr) (s : State), ∃ t, exec i s = .next t

/-! ### The renderer and the palette resolver -/

/-- RENDER_LINE(Y) writes pixel X of row Y into its three bytes, for every X in 0..159, and nothing else; it reads LCDC, SCY, SCX,
VRAM and BGMAP, and nothing else (R175, R187). -/
def Obligations.RenderLineWritesExactlyItsRow : Prop :=
  ∀ (s : State) (y : Nat), y < 144 →
    (∀ x < 160, ∀ c < 3, (renderLine s y).fb.read ((y * 160 + x) * 3 + c) = pixel s x y) ∧
    (∀ i, (i < y * 480 ∨ y * 480 + 480 ≤ i) → (renderLine s y).fb.read i = s.fb.read i) ∧
    renderLine s y = { s with fb := (renderLine s y).fb } ∧
    ∀ t : State, t.lcdc = s.lcdc → t.scy = s.scy → t.scx = s.scx → t.vram = s.vram → t.bgmap = s.bgmap →
      ∀ x, pixel t x y = pixel s x y

/-- PIXEL in one expression (R185). Bit polarities, planes and bit order are the spec's decisions D17 and D18 (log 21). -/
def Obligations.PixelIsTheOneExpression : Prop :=
  ∀ (s : State) (x y : Nat), x < 160 → y < 144 →
    let row := (s.scy.toNat + y) % 256
    let col := (s.scx.toNat + x) % 256
    let idx := (s.vram.read (((if s.lcdc.getLsbD 3 then 0x9C00 else 0x9800) + row / 8 * 32 + col / 8) % 0x2000)).toNat
    let t := if s.lcdc.getLsbD 4 then 0x8000 + idx * 16 else 0x8800 + (idx ^^^ 0x80) * 16
    let p1 := s.vram.read ((t + row % 8 * 2) % 0x2000)
    let p2 := s.vram.read ((t + row % 8 * 2 + 1) % 0x2000)
    let b := 7 - col % 8
    pixel s x y = s.bgmap.get (BitVec.ofNat 2 ((p1.getLsbD b).toNat + 2 * (p2.getLsbD b).toNat))

/-- The tile-data address (R179): unsigned from 0x8000, or signed from 0x8800, with the document's fixed points. -/
def Obligations.TileDataAddressesFollowBothModes : Prop :=
  (∀ idx : Byte, tileDataAddr true idx = 0x8000 + idx.toNat * 16) ∧
  (∀ idx : Byte, tileDataAddr false idx = if idx.toNat < 128 then 0x9000 + idx.toNat * 16 else 0x8000 + idx.toNat * 16) ∧
  tileDataAddr true 0 = 0x8000 ∧ tileDataAddr true 255 = 0x8FF0 ∧ tileDataAddr false 0 = 0x9000 ∧
  tileDataAddr false 128 = 0x8800

/-- PALDECODE splits a palette byte into four 2-bit groups from the lowest bits up and maps each through the fixed table
0 -> 255, 1 -> 192, 2 -> 96, other -> 0 (R183, R184). -/
def Obligations.PaletteDecodeMapsEachGroup : Prop :=
  (shade 0 = 255 ∧ shade 1 = 192 ∧ shade 2 = 96 ∧ shade 3 = 0) ∧
  ∀ (p : Byte) (id : Nat), id < 4 → (palDecode p).get (BitVec.ofNat 2 id) = shade (BitVec.ofNat 2 (p.toNat / 4 ^ id))

/-- A frame's worth of cycles from line 144 renders every row once and delivers them (R199): the delivered frame shows, at every
pixel, PIXEL of the state, and FB starts afresh. -/
def Obligations.AFrameOfCyclesDeliversTheWholeBackground : Prop :=
  ∀ s : State, s.lcdc.getLsbD 7 = true → s.hold = none → s.clk < 114 → s.ly = 144 → s.connected = true → s.queue = [] →
    ∃ t f, exec (.adv 17556) s = .next t ∧ t.queue = [f] ∧ t.events = s.events ++ [.deliver f] ∧ t.fb = [] ∧ t.ly = 144 ∧
      t.clk = s.clk ∧ t.resp = some (.done .ok 0) ∧
      ∀ x < 160, ∀ y < 144, ∀ c < 3, f.read ((y * 160 + x) * 3 + c) = pixel s x y

/-- The first frame after reset has no row 0 (R199, R242): from line 0 with a fresh FB, 144 lines of cycles deliver a frame whose
row 0 is the fill of a fresh FB and whose other rows are PIXEL of the state. That the fill is FB_FILL = 0x00 is the spec's decision
D20 (log 13, unsafe). -/
def Obligations.FirstFrameLeavesRowZeroUnrendered : Prop :=
  ∀ s : State, s.lcdc.getLsbD 7 = true → s.hold = none → s.clk = 0 → s.ly = 0 → s.fb = [] → s.connected = true →
    s.queue = [] →
    ∃ t f, exec (.adv 16416) s = .next t ∧ t.queue = [f] ∧ t.ly = 144 ∧ t.clk = 0 ∧
      ∀ x < 160, ∀ y < 144, ∀ c < 3,
        f.read ((y * 160 + x) * 3 + c) = if y = 0 then Config.fbFill else pixel s x y
end

