-- ==== Sys2Proof/Laws/Memory.lean ====
section
/-! SUPPORT. What the store operations do: a read after a write, every other index untouched, and the canonical form kept. -/

namespace Sys2Proof.Machine

@[simp] theorem Memory.read_nil (i : Nat) : Memory.read [] i = Config.resetByte := rfl

theorem Memory.read_cons (k : Nat) (b : Byte) (m : Memory) (i : Nat) :
    Memory.read ((k, b) :: m) i = if k = i then b else Memory.read m i := rfl

/-- An index that no entry lists reads as the reset byte. -/
theorem Memory.read_unlisted {m : Memory} {i : Nat} (h : ∀ c ∈ m, c.1 ≠ i) : m.read i = Config.resetByte := by
  induction m with
  | nil => rfl
  | cons c m ih =>
    obtain ⟨k, b⟩ := c
    rw [Memory.read_cons, if_neg (h (k, b) (by simp))]
    exact ih fun c hc => h c (by simp [hc])

theorem Memory.read_append (m n : Memory) (i : Nat) :
    Memory.read (m ++ n) i = if ∃ c ∈ m, c.1 = i then m.read i else n.read i := by
  induction m with
  | nil => simp
  | cons c m ih =>
    obtain ⟨k, b⟩ := c
    by_cases hk : k = i
    · simp [Memory.read_cons, hk]
    · simp [Memory.read_cons, hk, ih]

theorem Memory.read_filter (m : Memory) (p : Nat → Bool) (i : Nat) :
    Memory.read (m.filter fun c => p c.1) i = if p i then m.read i else Config.resetByte := by
  induction m with
  | nil => simp
  | cons c m ih =>
    obtain ⟨k, b⟩ := c
    by_cases hk : k = i
    · subst hk
      by_cases hp : p k
      · simp [Memory.read_cons, hp]
      · simp [hp, ih]
    · by_cases hp : p k
      · simp [Memory.read_cons, hp, hk, ih]
      · simp [Memory.read_cons, hp, hk, ih]

/-! ### One byte -/

theorem Memory.read_write_other (m : Memory) {i j : Nat} (v : Byte) (h : j ≠ i) :
    (m.write i v).read j = m.read j := by
  induction m with
  | nil =>
    unfold Memory.write
    split <;> simp [Memory.read_cons, h.symm]
  | cons c m ih =>
    obtain ⟨k, b⟩ := c
    unfold Memory.write
    split
    · simp [Memory.read_cons, ih]
    · split
      · rename_i _ hk
        have hk' : k ≠ j := hk ▸ h.symm
        split <;> simp [Memory.read_cons, h.symm, hk']
      · split <;> simp [Memory.read_cons, h.symm]

theorem Memory.read_write_same {m : Memory} (hm : m.wf) (i : Nat) (v : Byte) : (m.write i v).read i = v := by
  induction m with
  | nil =>
    unfold Memory.write
    split <;> simp_all [Memory.read_cons]
  | cons c m ih =>
    obtain ⟨k, b⟩ := c
    have htail : ∀ c ∈ m, k < c.1 := (List.pairwise_cons.1 hm.1).1
    have hm' : Memory.wf m := ⟨(List.pairwise_cons.1 hm.1).2, fun c hc => hm.2 c (by simp [hc])⟩
    unfold Memory.write
    split
    · rename_i hk
      simp [Memory.read_cons, hk.ne, ih hm']
    · split
      · rename_i _ hk
        split
        · rename_i hv
          rw [hv]
          exact Memory.read_unlisted fun c hc => by have := htail c hc; omega
        · simp [Memory.read_cons]
      · split
        · rename_i h1 h2 hv
          rw [hv]
          refine Memory.read_unlisted fun c hc => ?_
          rcases List.mem_cons.1 hc with rfl | hc
          · exact h2
          · have := htail c hc; omega
        · simp [Memory.read_cons]

theorem Memory.mem_write {m : Memory} {i : Nat} {v : Byte} {c : Host.Cell} (h : c ∈ m.write i v) :
    c ∈ m ∨ (c = (i, v) ∧ v ≠ Config.resetByte) := by
  induction m with
  | nil =>
    unfold Memory.write at h
    split at h <;> simp_all
  | cons d m ih =>
    obtain ⟨k, b⟩ := d
    unfold Memory.write at h
    split at h
    · rcases List.mem_cons.1 h with rfl | h
      · simp
      · rcases ih h with h | h
        · exact .inl (by simp [h])
        · exact .inr h
    · split at h
      · split at h
        · exact .inl (by simp [h])
        · rcases List.mem_cons.1 h with rfl | h
          · exact .inr ⟨rfl, by assumption⟩
          · exact .inl (by simp [h])
      · split at h
        · exact .inl h
        · rcases List.mem_cons.1 h with rfl | h
          · exact .inr ⟨rfl, by assumption⟩
          · exact .inl h

theorem Memory.write_wf {m : Memory} (hm : m.wf) (i : Nat) (v : Byte) : (m.write i v).wf := by
  refine ⟨?_, fun c hc => ?_⟩
  · induction m with
    | nil =>
      unfold Memory.write
      split <;> simp
    | cons c m ih =>
      obtain ⟨k, b⟩ := c
      have htail : ∀ c ∈ m, k < c.1 := (List.pairwise_cons.1 hm.1).1
      have hm' : Memory.wf m := ⟨(List.pairwise_cons.1 hm.1).2, fun c hc => hm.2 c (by simp [hc])⟩
      unfold Memory.write
      split
      · rename_i hk
        refine List.pairwise_cons.2 ⟨fun c hc => ?_, ih hm'⟩
        rcases Memory.mem_write hc with hc | ⟨rfl, -⟩
        · exact htail c hc
        · exact hk
      · split
        · rename_i _ hk
          split
          · exact hm'.1
          · exact List.pairwise_cons.2 ⟨fun c hc => by have := htail c hc; simp only; omega, hm'.1⟩
        · split
          · exact hm.1
          · refine List.pairwise_cons.2 ⟨fun c hc => ?_, hm.1⟩
            rcases List.mem_cons.1 hc with rfl | hc
            · simp only; omega
            · have := htail c hc; simp only; omega
  · rcases Memory.mem_write hc with hc | ⟨rfl, hv⟩
    · exact hm.2 c hc
    · exact hv

theorem Memory.write_below {m : Memory} {n i : Nat} (hm : m.below n) (hi : i < n) (v : Byte) : (m.write i v).below n := by
  intro c hc
  rcases Memory.mem_write hc with hc | ⟨rfl, -⟩
  · exact hm c hc
  · exact hi

/-! ### Consecutive bytes -/

theorem Memory.mem_ofBytes {base : Nat} {bytes : List Byte} {c : Host.Cell} (h : c ∈ Memory.ofBytes base bytes) :
    base ≤ c.1 ∧ c.1 < base + bytes.length ∧ c.2 ≠ Config.resetByte := by
  induction bytes generalizing base with
  | nil => simp [Memory.ofBytes] at h
  | cons b bs ih =>
    unfold Memory.ofBytes at h
    split at h
    · obtain ⟨h1, h2, h3⟩ := ih h
      exact ⟨by omega, by simp only [List.length_cons]; omega, h3⟩
    · rcases List.mem_cons.1 h with rfl | h
      · simp_all
      · obtain ⟨h1, h2, h3⟩ := ih h
        exact ⟨by omega, by simp only [List.length_cons]; omega, h3⟩

theorem Memory.ofBytes_wf (base : Nat) (bytes : List Byte) : (Memory.ofBytes base bytes).wf := by
  refine ⟨?_, fun c hc => (Memory.mem_ofBytes hc).2.2⟩
  induction bytes generalizing base with
  | nil => simp [Memory.ofBytes]
  | cons b bs ih =>
    unfold Memory.ofBytes
    split
    · exact ih _
    · exact List.pairwise_cons.2 ⟨fun c hc => by have := (Memory.mem_ofBytes hc).1; simp only; omega, ih _⟩

theorem Memory.read_ofBytes (base : Nat) (bytes : List Byte) (i : Nat) :
    (Memory.ofBytes base bytes).read i =
      if base ≤ i then (bytes[i - base]?).getD Config.resetByte else Config.resetByte := by
  induction bytes generalizing base with
  | nil => simp [Memory.ofBytes]
  | cons b bs ih =>
    have key : (Memory.ofBytes base (b :: bs)).read i = if base = i then b else (Memory.ofBytes (base + 1) bs).read i := by
      conv_lhs => unfold Memory.ofBytes
      split
      · rename_i hb
        split
        · rename_i hi
          rw [hb]
          exact Memory.read_unlisted fun c hc => by have := (Memory.mem_ofBytes hc).1; omega
        · rfl
      · rfl
    rw [key, ih]
    by_cases h1 : base = i
    · simp [h1]
    · by_cases h2 : base + 1 ≤ i
      · obtain ⟨d, rfl⟩ : ∃ d, i = base + 1 + d := ⟨i - (base + 1), by omega⟩
        have e1 : base + 1 + d - base = d + 1 := by omega
        have e2 : base + 1 + d - (base + 1) = d := by omega
        rw [if_neg h1, if_pos h2, if_pos (by omega), e1, e2, List.getElem?_cons_succ]
      · rw [if_neg h1, if_neg h2, if_neg (by omega)]

theorem Memory.splice_wf {m : Memory} (hm : m.wf) (base : Nat) (bytes : List Byte) : (m.splice base bytes).wf := by
  have hmid := Memory.ofBytes_wf base bytes
  refine ⟨?_, fun c hc => ?_⟩
  · refine List.pairwise_append.2 ⟨List.pairwise_append.2 ⟨hm.1.filter _, hmid.1, fun a ha b hb => ?_⟩, hm.1.filter _,
      fun a ha b hb => ?_⟩
    · have := (Memory.mem_ofBytes hb).1
      have := of_decide_eq_true (List.mem_filter.1 ha).2
      omega
    · have h2 := of_decide_eq_true (List.mem_filter.1 hb).2
      rcases List.mem_append.1 ha with ha | ha
      · have := of_decide_eq_true (List.mem_filter.1 ha).2
        omega
      · have := (Memory.mem_ofBytes ha).2.1
        omega
  · rcases List.mem_append.1 hc with hc | hc
    · rcases List.mem_append.1 hc with hc | hc
      · exact hm.2 c (List.mem_filter.1 hc).1
      · exact hmid.2 c hc
    · exact hm.2 c (List.mem_filter.1 hc).1

theorem Memory.splice_below {m : Memory} {n base : Nat} {bytes : List Byte} (hm : m.below n)
    (h : base + bytes.length ≤ n) : (m.splice base bytes).below n := by
  intro c hc
  rcases List.mem_append.1 hc with hc | hc
  · rcases List.mem_append.1 hc with hc | hc
    · exact hm c (List.mem_filter.1 hc).1
    · have := (Memory.mem_ofBytes hc).2.1
      omega
  · exact hm c (List.mem_filter.1 hc).1

/-- After a splice the spliced indexes read as the bytes given, and every other index as before. -/
theorem Memory.read_splice (m : Memory) (base : Nat) (bytes : List Byte) (i : Nat) :
    (m.splice base bytes).read i =
      if base ≤ i ∧ i < base + bytes.length then (bytes[i - base]?).getD Config.resetByte else m.read i := by
  unfold Memory.splice
  rw [Memory.read_append, Memory.read_append]
  have hlow := Memory.read_filter m (fun k => decide (k < base)) i
  have hhigh := Memory.read_filter m (fun k => decide (base + bytes.length ≤ k)) i
  have hmid := Memory.read_ofBytes base bytes i
  simp only [decide_eq_true_eq] at hlow hhigh
  rcases Nat.lt_or_ge i base with h1 | h1
  · have hnone : ¬ ∃ c ∈ Memory.ofBytes base bytes, c.1 = i := fun ⟨c, hc, hi⟩ => by
      have := (Memory.mem_ofBytes hc).1; omega
    have hnone2 : ¬ ∃ c ∈ List.filter (fun c => decide (base + bytes.length ≤ c.1)) m, c.1 = i := fun ⟨c, hc, hi⟩ => by
      have := of_decide_eq_true (List.mem_filter.1 hc).2; omega
    rw [if_neg (show ¬ (base ≤ i ∧ i < base + bytes.length) by omega)]
    by_cases h : ∃ c ∈ List.filter (fun c => decide (c.1 < base)) m, c.1 = i
    · have h' : ∃ c ∈ List.filter (fun c => decide (c.1 < base)) m ++ Memory.ofBytes base bytes, c.1 = i := by
        obtain ⟨c, hc, hi⟩ := h
        exact ⟨c, by simp only [List.mem_append]; exact .inl hc, hi⟩
      rw [if_pos h', if_pos h, hlow, if_pos h1]
    · have h' : ¬ ∃ c ∈ List.filter (fun c => decide (c.1 < base)) m ++ Memory.ofBytes base bytes, c.1 = i := by
        rintro ⟨c, hc, hi⟩
        rcases List.mem_append.1 hc with hc | hc
        · exact h ⟨c, hc, hi⟩
        · exact hnone ⟨c, hc, hi⟩
      rw [if_neg h', hhigh, if_neg (by omega), ← Memory.read_unlisted (m := m) (i := i)]
      intro c hc hi
      exact h ⟨c, List.mem_filter.2 ⟨hc, by simp; omega⟩, hi⟩
  · have hnlow : ¬ ∃ c ∈ List.filter (fun c => decide (c.1 < base)) m, c.1 = i := fun ⟨c, hc, hi⟩ => by
      have := of_decide_eq_true (List.mem_filter.1 hc).2; omega
    rcases Nat.lt_or_ge i (base + bytes.length) with h2 | h2
    · rw [if_pos (show base ≤ i ∧ i < base + bytes.length from ⟨h1, h2⟩)]
      rw [if_pos h1] at hmid
      by_cases h : ∃ c ∈ Memory.ofBytes base bytes, c.1 = i
      · have h' : ∃ c ∈ List.filter (fun c => decide (c.1 < base)) m ++ Memory.ofBytes base bytes, c.1 = i := by
          obtain ⟨c, hc, hi⟩ := h
          exact ⟨c, by simp only [List.mem_append]; exact .inr hc, hi⟩
        rw [if_pos h', if_neg hnlow, hmid]
      · have h' : ¬ ∃ c ∈ List.filter (fun c => decide (c.1 < base)) m ++ Memory.ofBytes base bytes, c.1 = i := by
          rintro ⟨c, hc, hi⟩
          rcases List.mem_append.1 hc with hc | hc
          · exact hnlow ⟨c, hc, hi⟩
          · exact h ⟨c, hc, hi⟩
        rw [if_neg h', hhigh, if_neg (by omega), ← hmid, Memory.read_unlisted]
        exact fun c hc hi => h ⟨c, hc, hi⟩
    · have h' : ¬ ∃ c ∈ List.filter (fun c => decide (c.1 < base)) m ++ Memory.ofBytes base bytes, c.1 = i := by
        rintro ⟨c, hc, hi⟩
        rcases List.mem_append.1 hc with hc | hc
        · exact hnlow ⟨c, hc, hi⟩
        · have := (Memory.mem_ofBytes hc).2.1; omega
      rw [if_neg h', hhigh, if_pos (by omega), if_neg (by omega)]

end Sys2Proof.Machine
end

