-- ==== Sys2Proof/Laws/State.lean ====
section
/-! SUPPORT. One lemma per field and per named update of the state, and what a cell reads as after each update. -/

namespace Sys2Proof.Machine

/-! ### A processor-port response -/

@[simp] theorem State.respond_lcdc (s : State) (r : Resp) : (s.respond r).lcdc = s.lcdc := rfl
@[simp] theorem State.respond_stat (s : State) (r : Resp) : (s.respond r).stat = s.stat := rfl
@[simp] theorem State.respond_scy (s : State) (r : Resp) : (s.respond r).scy = s.scy := rfl
@[simp] theorem State.respond_scx (s : State) (r : Resp) : (s.respond r).scx = s.scx := rfl
@[simp] theorem State.respond_ly (s : State) (r : Resp) : (s.respond r).ly = s.ly := rfl
@[simp] theorem State.respond_bgp (s : State) (r : Resp) : (s.respond r).bgp = s.bgp := rfl
@[simp] theorem State.respond_obp0 (s : State) (r : Resp) : (s.respond r).obp0 = s.obp0 := rfl
@[simp] theorem State.respond_obp1 (s : State) (r : Resp) : (s.respond r).obp1 = s.obp1 := rfl
@[simp] theorem State.respond_wy (s : State) (r : Resp) : (s.respond r).wy = s.wy := rfl
@[simp] theorem State.respond_wx (s : State) (r : Resp) : (s.respond r).wx = s.wx := rfl
@[simp] theorem State.respond_ifl (s : State) (r : Resp) : (s.respond r).ifl = s.ifl := rfl
@[simp] theorem State.respond_clk (s : State) (r : Resp) : (s.respond r).clk = s.clk := rfl
@[simp] theorem State.respond_bgmap (s : State) (r : Resp) : (s.respond r).bgmap = s.bgmap := rfl
@[simp] theorem State.respond_obmap0 (s : State) (r : Resp) : (s.respond r).obmap0 = s.obmap0 := rfl
@[simp] theorem State.respond_obmap1 (s : State) (r : Resp) : (s.respond r).obmap1 = s.obmap1 := rfl
@[simp] theorem State.respond_vram (s : State) (r : Resp) : (s.respond r).vram = s.vram := rfl
@[simp] theorem State.respond_oam (s : State) (r : Resp) : (s.respond r).oam = s.oam := rfl
@[simp] theorem State.respond_fb (s : State) (r : Resp) : (s.respond r).fb = s.fb := rfl
@[simp] theorem State.respond_rom (s : State) (r : Resp) : (s.respond r).rom = s.rom := rfl
@[simp] theorem State.respond_romLen (s : State) (r : Resp) : (s.respond r).romLen = s.romLen := rfl
@[simp] theorem State.respond_wram (s : State) (r : Resp) : (s.respond r).wram = s.wram := rfl
@[simp] theorem State.respond_zram (s : State) (r : Resp) : (s.respond r).zram = s.zram := rfl
@[simp] theorem State.respond_serial (s : State) (r : Resp) : (s.respond r).serial = s.serial := rfl
@[simp] theorem State.respond_queue (s : State) (r : Resp) : (s.respond r).queue = s.queue := rfl
@[simp] theorem State.respond_connected (s : State) (r : Resp) : (s.respond r).connected = s.connected := rfl
@[simp] theorem State.respond_phase (s : State) (r : Resp) : (s.respond r).phase = s.phase := rfl
@[simp] theorem State.respond_events (s : State) (r : Resp) : (s.respond r).events = s.events := rfl
@[simp] theorem State.respond_hold (s : State) (r : Resp) : (s.respond r).hold = s.hold := rfl
@[simp] theorem State.respond_resp (s : State) (r : Resp) : (s.respond r).resp = some r := rfl
@[simp] theorem State.respond_dresp (s : State) (r : Resp) : (s.respond r).dresp = s.dresp := rfl
@[simp] theorem State.respond_byteRes (s : State) (r : Resp) : (s.respond r).byteRes = s.byteRes := rfl
@[simp] theorem State.respond_inputs (s : State) (r : Resp) : (s.respond r).inputs = s.inputs := rfl

/-! ### A display-port response -/

@[simp] theorem State.dispRespond_lcdc (s : State) (r : DispResp) : (s.dispRespond r).lcdc = s.lcdc := rfl
@[simp] theorem State.dispRespond_stat (s : State) (r : DispResp) : (s.dispRespond r).stat = s.stat := rfl
@[simp] theorem State.dispRespond_scy (s : State) (r : DispResp) : (s.dispRespond r).scy = s.scy := rfl
@[simp] theorem State.dispRespond_scx (s : State) (r : DispResp) : (s.dispRespond r).scx = s.scx := rfl
@[simp] theorem State.dispRespond_ly (s : State) (r : DispResp) : (s.dispRespond r).ly = s.ly := rfl
@[simp] theorem State.dispRespond_bgp (s : State) (r : DispResp) : (s.dispRespond r).bgp = s.bgp := rfl
@[simp] theorem State.dispRespond_obp0 (s : State) (r : DispResp) : (s.dispRespond r).obp0 = s.obp0 := rfl
@[simp] theorem State.dispRespond_obp1 (s : State) (r : DispResp) : (s.dispRespond r).obp1 = s.obp1 := rfl
@[simp] theorem State.dispRespond_wy (s : State) (r : DispResp) : (s.dispRespond r).wy = s.wy := rfl
@[simp] theorem State.dispRespond_wx (s : State) (r : DispResp) : (s.dispRespond r).wx = s.wx := rfl
@[simp] theorem State.dispRespond_ifl (s : State) (r : DispResp) : (s.dispRespond r).ifl = s.ifl := rfl
@[simp] theorem State.dispRespond_clk (s : State) (r : DispResp) : (s.dispRespond r).clk = s.clk := rfl
@[simp] theorem State.dispRespond_bgmap (s : State) (r : DispResp) : (s.dispRespond r).bgmap = s.bgmap := rfl
@[simp] theorem State.dispRespond_obmap0 (s : State) (r : DispResp) : (s.dispRespond r).obmap0 = s.obmap0 := rfl
@[simp] theorem State.dispRespond_obmap1 (s : State) (r : DispResp) : (s.dispRespond r).obmap1 = s.obmap1 := rfl
@[simp] theorem State.dispRespond_vram (s : State) (r : DispResp) : (s.dispRespond r).vram = s.vram := rfl
@[simp] theorem State.dispRespond_oam (s : State) (r : DispResp) : (s.dispRespond r).oam = s.oam := rfl
@[simp] theorem State.dispRespond_fb (s : State) (r : DispResp) : (s.dispRespond r).fb = s.fb := rfl
@[simp] theorem State.dispRespond_rom (s : State) (r : DispResp) : (s.dispRespond r).rom = s.rom := rfl
@[simp] theorem State.dispRespond_romLen (s : State) (r : DispResp) : (s.dispRespond r).romLen = s.romLen := rfl
@[simp] theorem State.dispRespond_wram (s : State) (r : DispResp) : (s.dispRespond r).wram = s.wram := rfl
@[simp] theorem State.dispRespond_zram (s : State) (r : DispResp) : (s.dispRespond r).zram = s.zram := rfl
@[simp] theorem State.dispRespond_serial (s : State) (r : DispResp) : (s.dispRespond r).serial = s.serial := rfl
@[simp] theorem State.dispRespond_queue (s : State) (r : DispResp) : (s.dispRespond r).queue = s.queue := rfl
@[simp] theorem State.dispRespond_connected (s : State) (r : DispResp) : (s.dispRespond r).connected = s.connected := rfl
@[simp] theorem State.dispRespond_phase (s : State) (r : DispResp) : (s.dispRespond r).phase = s.phase := rfl
@[simp] theorem State.dispRespond_events (s : State) (r : DispResp) : (s.dispRespond r).events = s.events := rfl
@[simp] theorem State.dispRespond_hold (s : State) (r : DispResp) : (s.dispRespond r).hold = s.hold := rfl
@[simp] theorem State.dispRespond_resp (s : State) (r : DispResp) : (s.dispRespond r).resp = s.resp := rfl
@[simp] theorem State.dispRespond_dresp (s : State) (r : DispResp) : (s.dispRespond r).dresp = some r := rfl
@[simp] theorem State.dispRespond_byteRes (s : State) (r : DispResp) : (s.dispRespond r).byteRes = s.byteRes := rfl
@[simp] theorem State.dispRespond_inputs (s : State) (r : DispResp) : (s.dispRespond r).inputs = s.inputs := rfl

/-! ### The result of a byte primitive -/

@[simp] theorem State.byteDone_lcdc (s : State) (r : ByteRes) : (s.byteDone r).lcdc = s.lcdc := rfl
@[simp] theorem State.byteDone_stat (s : State) (r : ByteRes) : (s.byteDone r).stat = s.stat := rfl
@[simp] theorem State.byteDone_scy (s : State) (r : ByteRes) : (s.byteDone r).scy = s.scy := rfl
@[simp] theorem State.byteDone_scx (s : State) (r : ByteRes) : (s.byteDone r).scx = s.scx := rfl
@[simp] theorem State.byteDone_ly (s : State) (r : ByteRes) : (s.byteDone r).ly = s.ly := rfl
@[simp] theorem State.byteDone_bgp (s : State) (r : ByteRes) : (s.byteDone r).bgp = s.bgp := rfl
@[simp] theorem State.byteDone_obp0 (s : State) (r : ByteRes) : (s.byteDone r).obp0 = s.obp0 := rfl
@[simp] theorem State.byteDone_obp1 (s : State) (r : ByteRes) : (s.byteDone r).obp1 = s.obp1 := rfl
@[simp] theorem State.byteDone_wy (s : State) (r : ByteRes) : (s.byteDone r).wy = s.wy := rfl
@[simp] theorem State.byteDone_wx (s : State) (r : ByteRes) : (s.byteDone r).wx = s.wx := rfl
@[simp] theorem State.byteDone_ifl (s : State) (r : ByteRes) : (s.byteDone r).ifl = s.ifl := rfl
@[simp] theorem State.byteDone_clk (s : State) (r : ByteRes) : (s.byteDone r).clk = s.clk := rfl
@[simp] theorem State.byteDone_bgmap (s : State) (r : ByteRes) : (s.byteDone r).bgmap = s.bgmap := rfl
@[simp] theorem State.byteDone_obmap0 (s : State) (r : ByteRes) : (s.byteDone r).obmap0 = s.obmap0 := rfl
@[simp] theorem State.byteDone_obmap1 (s : State) (r : ByteRes) : (s.byteDone r).obmap1 = s.obmap1 := rfl
@[simp] theorem State.byteDone_vram (s : State) (r : ByteRes) : (s.byteDone r).vram = s.vram := rfl
@[simp] theorem State.byteDone_oam (s : State) (r : ByteRes) : (s.byteDone r).oam = s.oam := rfl
@[simp] theorem State.byteDone_fb (s : State) (r : ByteRes) : (s.byteDone r).fb = s.fb := rfl
@[simp] theorem State.byteDone_rom (s : State) (r : ByteRes) : (s.byteDone r).rom = s.rom := rfl
@[simp] theorem State.byteDone_romLen (s : State) (r : ByteRes) : (s.byteDone r).romLen = s.romLen := rfl
@[simp] theorem State.byteDone_wram (s : State) (r : ByteRes) : (s.byteDone r).wram = s.wram := rfl
@[simp] theorem State.byteDone_zram (s : State) (r : ByteRes) : (s.byteDone r).zram = s.zram := rfl
@[simp] theorem State.byteDone_serial (s : State) (r : ByteRes) : (s.byteDone r).serial = s.serial := rfl
@[simp] theorem State.byteDone_queue (s : State) (r : ByteRes) : (s.byteDone r).queue = s.queue := rfl
@[simp] theorem State.byteDone_connected (s : State) (r : ByteRes) : (s.byteDone r).connected = s.connected := rfl
@[simp] theorem State.byteDone_phase (s : State) (r : ByteRes) : (s.byteDone r).phase = s.phase := rfl
@[simp] theorem State.byteDone_events (s : State) (r : ByteRes) : (s.byteDone r).events = s.events := rfl
@[simp] theorem State.byteDone_hold (s : State) (r : ByteRes) : (s.byteDone r).hold = s.hold := rfl
@[simp] theorem State.byteDone_resp (s : State) (r : ByteRes) : (s.byteDone r).resp = s.resp := rfl
@[simp] theorem State.byteDone_dresp (s : State) (r : ByteRes) : (s.byteDone r).dresp = s.dresp := rfl
@[simp] theorem State.byteDone_byteRes (s : State) (r : ByteRes) : (s.byteDone r).byteRes = some r := rfl
@[simp] theorem State.byteDone_inputs (s : State) (r : ByteRes) : (s.byteDone r).inputs = s.inputs := rfl

/-! ### An error status -/

@[simp] theorem State.raise_eq (s : State) (e : ErrStatus) : s.raise e = s.respond (.error e) := rfl

/-! ### A cell write: every field but the five stores -/

@[simp] theorem State.writeCell_lcdc (s : State) (c : Cell) (v : Byte) : (s.writeCell c v).lcdc = s.lcdc := by
  cases c with | mk st i => cases st <;> rfl
@[simp] theorem State.writeCell_stat (s : State) (c : Cell) (v : Byte) : (s.writeCell c v).stat = s.stat := by
  cases c with | mk st i => cases st <;> rfl
@[simp] theorem State.writeCell_scy (s : State) (c : Cell) (v : Byte) : (s.writeCell c v).scy = s.scy := by
  cases c with | mk st i => cases st <;> rfl
@[simp] theorem State.writeCell_scx (s : State) (c : Cell) (v : Byte) : (s.writeCell c v).scx = s.scx := by
  cases c with | mk st i => cases st <;> rfl
@[simp] theorem State.writeCell_ly (s : State) (c : Cell) (v : Byte) : (s.writeCell c v).ly = s.ly := by
  cases c with | mk st i => cases st <;> rfl
@[simp] theorem State.writeCell_bgp (s : State) (c : Cell) (v : Byte) : (s.writeCell c v).bgp = s.bgp := by
  cases c with | mk st i => cases st <;> rfl
@[simp] theorem State.writeCell_obp0 (s : State) (c : Cell) (v : Byte) : (s.writeCell c v).obp0 = s.obp0 := by
  cases c with | mk st i => cases st <;> rfl
@[simp] theorem State.writeCell_obp1 (s : State) (c : Cell) (v : Byte) : (s.writeCell c v).obp1 = s.obp1 := by
  cases c with | mk st i => cases st <;> rfl
@[simp] theorem State.writeCell_wy (s : State) (c : Cell) (v : Byte) : (s.writeCell c v).wy = s.wy := by
  cases c with | mk st i => cases st <;> rfl
@[simp] theorem State.writeCell_wx (s : State) (c : Cell) (v : Byte) : (s.writeCell c v).wx = s.wx := by
  cases c with | mk st i => cases st <;> rfl
@[simp] theorem State.writeCell_ifl (s : State) (c : Cell) (v : Byte) : (s.writeCell c v).ifl = s.ifl := by
  cases c with | mk st i => cases st <;> rfl
@[simp] theorem State.writeCell_clk (s : State) (c : Cell) (v : Byte) : (s.writeCell c v).clk = s.clk := by
  cases c with | mk st i => cases st <;> rfl
@[simp] theorem State.writeCell_bgmap (s : State) (c : Cell) (v : Byte) : (s.writeCell c v).bgmap = s.bgmap := by
  cases c with | mk st i => cases st <;> rfl
@[simp] theorem State.writeCell_obmap0 (s : State) (c : Cell) (v : Byte) : (s.writeCell c v).obmap0 = s.obmap0 := by
  cases c with | mk st i => cases st <;> rfl
@[simp] theorem State.writeCell_obmap1 (s : State) (c : Cell) (v : Byte) : (s.writeCell c v).obmap1 = s.obmap1 := by
  cases c with | mk st i => cases st <;> rfl
@[simp] theorem State.writeCell_fb (s : State) (c : Cell) (v : Byte) : (s.writeCell c v).fb = s.fb := by
  cases c with | mk st i => cases st <;> rfl
@[simp] theorem State.writeCell_romLen (s : State) (c : Cell) (v : Byte) : (s.writeCell c v).romLen = s.romLen := by
  cases c with | mk st i => cases st <;> rfl
@[simp] theorem State.writeCell_serial (s : State) (c : Cell) (v : Byte) : (s.writeCell c v).serial = s.serial := by
  cases c with | mk st i => cases st <;> rfl
@[simp] theorem State.writeCell_queue (s : State) (c : Cell) (v : Byte) : (s.writeCell c v).queue = s.queue := by
  cases c with | mk st i => cases st <;> rfl
@[simp] theorem State.writeCell_connected (s : State) (c : Cell) (v : Byte) : (s.writeCell c v).connected = s.connected := by
  cases c with | mk st i => cases st <;> rfl
@[simp] theorem State.writeCell_phase (s : State) (c : Cell) (v : Byte) : (s.writeCell c v).phase = s.phase := by
  cases c with | mk st i => cases st <;> rfl
@[simp] theorem State.writeCell_events (s : State) (c : Cell) (v : Byte) : (s.writeCell c v).events = s.events := by
  cases c with | mk st i => cases st <;> rfl
@[simp] theorem State.writeCell_hold (s : State) (c : Cell) (v : Byte) : (s.writeCell c v).hold = s.hold := by
  cases c with | mk st i => cases st <;> rfl
@[simp] theorem State.writeCell_resp (s : State) (c : Cell) (v : Byte) : (s.writeCell c v).resp = s.resp := by
  cases c with | mk st i => cases st <;> rfl
@[simp] theorem State.writeCell_dresp (s : State) (c : Cell) (v : Byte) : (s.writeCell c v).dresp = s.dresp := by
  cases c with | mk st i => cases st <;> rfl
@[simp] theorem State.writeCell_byteRes (s : State) (c : Cell) (v : Byte) : (s.writeCell c v).byteRes = s.byteRes := by
  cases c with | mk st i => cases st <;> rfl
@[simp] theorem State.writeCell_inputs (s : State) (c : Cell) (v : Byte) : (s.writeCell c v).inputs = s.inputs := by
  cases c with | mk st i => cases st <;> rfl

/-- A cell write changes one store, and only at its index. -/
theorem State.mem_writeCell (s : State) (c : Cell) (v : Byte) (st : Store) :
    (s.writeCell c v).mem st = if st = c.store then (s.mem st).write c.index v else s.mem st := by
  cases c with | mk st' i => cases st' <;> cases st <;> rfl

/-! ### What a cell reads as -/

@[simp] theorem State.respond_readCell (s : State) (r : Resp) (c : Cell) : (s.respond r).readCell c = s.readCell c := rfl
@[simp] theorem State.dispRespond_readCell (s : State) (r : DispResp) (c : Cell) : (s.dispRespond r).readCell c = s.readCell c := rfl
@[simp] theorem State.byteDone_readCell (s : State) (r : ByteRes) (c : Cell) : (s.byteDone r).readCell c = s.readCell c := rfl

theorem State.readCell_writeCell_other (s : State) {c d : Cell} (v : Byte) (h : d ≠ c) :
    (s.writeCell c v).readCell d = s.readCell d := by
  unfold State.readCell
  rw [State.mem_writeCell]
  split
  · rename_i hst
    refine Memory.read_write_other _ v fun hi => h ?_
    cases c
    cases d
    simp_all
  · rfl

theorem State.readCell_writeCell_same {s : State} {c : Cell} (h : (s.mem c.store).wf) (v : Byte) :
    (s.writeCell c v).readCell c = v := by
  unfold State.readCell
  rw [State.mem_writeCell, if_pos rfl]
  exact Memory.read_write_same h _ _

end Sys2Proof.Machine
end

