-- ==== Sys2Proof/Laws/Bus.lean ====
section
/-! SUPPORT. What the bus's byte primitives and the register accessors can do, said once. -/

namespace Sys2Proof.Machine

/-! ### Addresses -/

theorem vramIndex_eq (a : Addr) : vramIndex a = a.toNat % 0x2000 := by
  have h : a.toNat &&& (2 ^ 13 - 1) = a.toNat % 2 ^ 13 := Nat.and_two_pow_sub_one_eq_mod _ _
  simpa [vramIndex, Config.storeMask] using h

theorem wramIndex_eq (a : Addr) : wramIndex a = a.toNat % 0x2000 := vramIndex_eq a

theorem oamIndex_eq (a : Addr) : oamIndex a = a.toNat % 0x100 := by
  have h : a.toNat &&& (2 ^ 8 - 1) = a.toNat % 2 ^ 8 := Nat.and_two_pow_sub_one_eq_mod _ _
  simpa [oamIndex, Config.oamMask] using h

theorem zramIndex_eq (a : Addr) : zramIndex a = a.toNat % 0x80 := by
  have h : a.toNat &&& (2 ^ 7 - 1) = a.toNat % 2 ^ 7 := Nat.and_two_pow_sub_one_eq_mod _ _
  simpa [zramIndex, Config.zramMask] using h

/-- Ranges that all end below `n` are passed over. -/
theorem regionIn_append {before : List (Nat × Region)} {n : Nat} (h : ∀ e ∈ before, e.1 < n) (rest : List (Nat × Region)) :
    regionIn n (before ++ rest) = regionIn n rest := by
  induction before with
  | nil => rfl
  | cons e before ih =>
    have he : ¬ n ≤ e.1 := Nat.not_le.2 (h e List.mem_cons_self)
    exact (if_neg he).trans (ih fun d hd => h d (List.mem_cons_of_mem _ hd))

/-- An address past the first `k` ranges, the last of which ends at `low`, and not past the next one, is in the next one. -/
theorem region_row {a : Addr} (k low last : Nat) (r : Region) (rest : List (Nat × Region))
    (hsplit : regionEnds.drop k = (last, r) :: rest) (hends : ∀ e ∈ regionEnds.take k, e.1 ≤ low)
    (hlow : low < a.toNat) (hlast : a.toNat ≤ last) : region a = r := by
  rw [region, ← List.take_append_drop k regionEnds, regionIn_append fun e he => (hends e he).trans_lt hlow, hsplit]
  exact if_pos hlast

theorem region_rom {a : Addr} (h : a.toNat ≤ 0x7FFF) : region a = .rom := if_pos h

theorem region_vram {a : Addr} (h1 : 0x8000 ≤ a.toNat) (h2 : a.toNat ≤ 0x9FFF) : region a = .vram :=
  region_row 1 0x7FFF _ _ _ rfl (by decide) h1 h2

theorem region_cram {a : Addr} (h1 : 0xA000 ≤ a.toNat) (h2 : a.toNat ≤ 0xBFFF) : region a = .cram :=
  region_row 2 0x9FFF _ _ _ rfl (by decide) h1 h2

theorem region_wram {a : Addr} (h1 : 0xC000 ≤ a.toNat) (h2 : a.toNat ≤ 0xFDFF) : region a = .wram :=
  region_row 3 0xBFFF _ _ _ rfl (by decide) h1 h2

theorem region_oam {a : Addr} (h1 : 0xFE00 ≤ a.toNat) (h2 : a.toNat ≤ 0xFE9F) : region a = .oam :=
  region_row 4 0xFDFF _ _ _ rfl (by decide) h1 h2

/-- The hole after the sprite table, FF00 with it. -/
theorem region_unmapped_oam {a : Addr} (h1 : 0xFEA0 ≤ a.toNat) (h2 : a.toNat ≤ 0xFF00) : region a = .unmapped := by
  rcases Nat.lt_or_ge 0xFEFF a.toNat with h | h
  · exact region_row 6 0xFEFF _ _ _ rfl (by decide) h h2
  · exact region_row 5 0xFE9F _ _ _ rfl (by decide) h1 h

theorem region_serial {a : Addr} (h1 : 0xFF01 ≤ a.toNat) (h2 : a.toNat ≤ 0xFF02) : region a = .serial :=
  region_row 7 0xFF00 _ _ _ rfl (by decide) h1 h2

/-- The hole after the serial registers. -/
theorem region_unmapped_serial {a : Addr} (h1 : 0xFF03 ≤ a.toNat) (h2 : a.toNat ≤ 0xFF3F) : region a = .unmapped :=
  region_row 8 0xFF02 _ _ _ rfl (by decide) h1 h2

theorem region_display {a : Addr} (h1 : 0xFF40 ≤ a.toNat) (h2 : a.toNat ≤ 0xFF4B) : region a = .display :=
  region_row 9 0xFF3F _ _ _ rfl (by decide) h1 h2

/-- The hole after the display registers. -/
theorem region_unmapped_display {a : Addr} (h1 : 0xFF4C ≤ a.toNat) (h2 : a.toNat ≤ 0xFF7F) : region a = .unmapped :=
  region_row 10 0xFF4B _ _ _ rfl (by decide) h1 h2

theorem region_zram {a : Addr} (h1 : 0xFF80 ≤ a.toNat) : region a = .zram := by
  have hends : ∀ e ∈ regionEnds, e.1 < a.toNat := fun e he => by
    have hlast : e.1 ≤ 0xFF7F := by
      revert e
      decide
    omega
  exact (congrArg _ (List.append_nil _).symm).trans (regionIn_append hends [])

/-- The region of an address is one of the five stores, two of them with the bounds their index needs, or none of these. -/
theorem region_stores (a : Addr) :
    (region a = .rom ∧ a.toNat ≤ 0x7FFF) ∨ region a = .vram ∨ region a = .wram ∨
    (region a = .oam ∧ 0xFE00 ≤ a.toNat ∧ a.toNat ≤ 0xFE9F) ∨ region a = .zram ∨
    (region a ≠ .rom ∧ region a ≠ .vram ∧ region a ≠ .wram ∧ region a ≠ .oam ∧ region a ≠ .zram) := by
  by_cases hlow : a.toNat ≤ 0xFDFF
  · have hrange : a.toNat ≤ 0x7FFF ∨ (0x8000 ≤ a.toNat ∧ a.toNat ≤ 0x9FFF) ∨ (0xA000 ≤ a.toNat ∧ a.toNat ≤ 0xBFFF) ∨
        0xC000 ≤ a.toNat := by omega
    rcases hrange with h | ⟨hv, hv'⟩ | ⟨hc, hc'⟩ | hw
    · simp [region_rom h, h]
    · simp [region_vram hv hv']
    · simp [region_cram hc hc']
    · simp [region_wram hw hlow]
  · have hrange : (0xFE00 ≤ a.toNat ∧ a.toNat ≤ 0xFE9F) ∨ (0xFEA0 ≤ a.toNat ∧ a.toNat ≤ 0xFF00) ∨
        (0xFF01 ≤ a.toNat ∧ a.toNat ≤ 0xFF02) ∨ (0xFF03 ≤ a.toNat ∧ a.toNat ≤ 0xFF3F) ∨
        (0xFF40 ≤ a.toNat ∧ a.toNat ≤ 0xFF4B) ∨ (0xFF4C ≤ a.toNat ∧ a.toNat ≤ 0xFF7F) ∨ 0xFF80 ≤ a.toNat := by omega
    rcases hrange with ⟨ho, ho'⟩ | ⟨hu, hu'⟩ | ⟨hs, hs'⟩ | ⟨hu, hu'⟩ | ⟨hd, hd'⟩ | ⟨hu, hu'⟩ | hz
    · simp [region_oam ho ho', ho, ho']
    · simp [region_unmapped_oam hu hu']
    · simp [region_serial hs hs']
    · simp [region_unmapped_serial hu hu']
    · simp [region_display hd hd']
    · simp [region_unmapped_display hu hu']
    · simp [region_zram hz]

/-- The size of a store: how many cells exist (R37). -/
def Store.size (s : State) : Store → Nat
  | .rom => s.romLen
  | .vram => Config.vramSize
  | .wram => Config.wramSize
  | .oam => Config.oamSize
  | .zram => Config.zramSize

/-- A bus address reaches only cells that exist. -/
theorem busCell_inside {a : Addr} {s : State} {c : Cell} (h : busCell a s = some c) : c.index < c.store.size s := by
  unfold busCell regionCell at h
  rcases region_stores a with ⟨hr, -⟩ | hr | hr | ⟨hr, h1, h2⟩ | hr | ⟨h1, h2, h3, h4, h5⟩
  · rw [hr] at h
    simp only at h
    split at h
    · cases h
      simpa [Store.size, romIndex]
    · cases h
  · rw [hr] at h
    cases h
    simp only [Store.size, vramIndex_eq, Config.vramSize]
    omega
  · rw [hr] at h
    cases h
    simp only [Store.size, wramIndex_eq, Config.wramSize]
    omega
  · rw [hr] at h
    cases h
    simp only [Store.size, oamIndex_eq, Config.oamSize]
    omega
  · rw [hr] at h
    cases h
    simp only [Store.size, zramIndex_eq, Config.zramSize]
    omega
  · cases hr : region a <;> simp_all

/-! ### Register accesses -/

/-- A register write leaves everything but the display registers and the maps. -/
theorem regWrite_frame (d : DispReg) (v : Byte) (s : State) :
    SameEngine s (regWrite d v s).2 ∧ SameChannel s (regWrite d v s).2 ∧ SamePlatform s (regWrite d v s).2 ∧
    (regWrite d v s).2.serial = s.serial ∧ (regWrite d v s).2.resp = s.resp ∧ (regWrite d v s).2.dresp = s.dresp ∧
    (regWrite d v s).2.byteRes = s.byteRes ∧ ∀ st, (regWrite d v s).2.mem st = s.mem st := by
  cases d <;> simp [regWrite, SameEngine, SameChannel, SamePlatform] <;> intro st <;> cases st <;> rfl

/-- An erring register write changes nothing (R155). -/
theorem regWrite_error {d : DispReg} {v : Byte} {s : State} {e : ErrStatus} (h : (regWrite d v s).1 = .error e) :
    (regWrite d v s).2 = s := by
  cases d <;> simp_all [regWrite]

theorem regWrite_maps {d : DispReg} {v : Byte} {s : State} (h : MapsInSync s) : MapsInSync (regWrite d v s).2 := by
  obtain ⟨h1, h2, h3⟩ := h
  cases d <;> simp [regWrite, MapsInSync, h1, h2, h3]

/-! ### Byte primitives -/

/-- A READ1 changes the serial stub at most (R115), and only from the serial region. -/
theorem regionRead_state (r : Region) (a : Addr) (s : State) :
    (regionRead r a s).2 = { s with serial := (regionRead r a s).2.serial } ∧
    (r ≠ .serial → (regionRead r a s).2 = s) := by
  unfold regionRead
  split
  · simp
  · cases r <;> simp
    split <;> simp

/-- Everything a WRITE1 can do: it writes one cell, or changes nothing, or changes the serial stub, or is a register write. -/
theorem regionWrite_cases (r : Region) (a : Addr) (v : Byte) (s : State) :
    (∃ c, regionCell r a s = some c ∧ regionWrite r a v s = (.done .ok, s.writeCell c v)) ∨
    (regionCell r a s = none ∧ ∃ w, regionWrite r a v s = (w, s)) ∨
    (r = .serial ∧ regionWrite r a v s = (.done .ok, { s with serial := serialWrite (serialReg a) v s.serial })) ∨
    (r = .display ∧ ∃ d, dispReg a = some d ∧ regionWrite r a v s = regWrite d v s) := by
  unfold regionWrite
  cases hc : regionCell r a s with
  | some c => exact .inl ⟨c, rfl, rfl⟩
  | none =>
    cases r <;> simp
    cases hd : dispReg a <;> simp

/-- A byte access that is run by itself answers a next state. -/
theorem regionAccess_next (r : Region) (a : Addr) (acc : ByteAccess) (s : State) : ∃ t, regionAccess r a acc s = .next t := by
  cases acc <;> exact ⟨_, rfl⟩

@[simp] theorem State.readCell_respond (s : State) (x : Resp) (c : Cell) : (s.respond x).readCell c = s.readCell c := by
  obtain ⟨st, i⟩ := c
  cases st <;> rfl

/-- A READ1 does not depend on the response latch. -/
theorem regionRead_respond (r : Region) (a : Addr) (s : State) (x : Resp) :
    regionRead r a (s.respond x) = ((regionRead r a s).1, (regionRead r a s).2.respond x) := by
  have hc : regionCell r a (s.respond x) = regionCell r a s := rfl
  unfold regionRead
  rw [hc]
  cases regionCell r a s with
  | some c => simp
  | none =>
    cases r <;> first | rfl | skip
    cases dispReg a with
    | none => rfl
    | some d => cases d <;> rfl

/-- A WRITE1 does not depend on the response latch. -/
theorem regionWrite_respond (r : Region) (a : Addr) (v : Byte) (s : State) (x : Resp) :
    regionWrite r a v (s.respond x) = ((regionWrite r a v s).1, (regionWrite r a v s).2.respond x) := by
  have hc : regionCell r a (s.respond x) = regionCell r a s := rfl
  unfold regionWrite
  rw [hc]
  cases regionCell r a s with
  | some c =>
    obtain ⟨st, i⟩ := c
    cases st <;> rfl
  | none =>
    cases r <;> first | rfl | skip
    cases dispReg a with
    | none => rfl
    | some d => cases d <;> rfl

/-- A WRITE1 leaves the engine, the channel, the platform and the responses (R115). -/
theorem regionWrite_frame (r : Region) (a : Addr) (v : Byte) (s : State) :
    SameEngine s (regionWrite r a v s).2 ∧ SameChannel s (regionWrite r a v s).2 ∧ SamePlatform s (regionWrite r a v s).2 ∧
    (regionWrite r a v s).2.resp = s.resp ∧ (regionWrite r a v s).2.dresp = s.dresp ∧
    (regionWrite r a v s).2.byteRes = s.byteRes := by
  rcases regionWrite_cases r a v s with ⟨c, -, h⟩ | ⟨-, w, h⟩ | ⟨-, h⟩ | ⟨-, d, -, h⟩ <;> rw [h]
  · simp [SameEngine, SameChannel, SamePlatform]
  · simp [SameEngine, SameChannel, SamePlatform]
  · simp [SameEngine, SameChannel, SamePlatform]
  · obtain ⟨h1, h2, h3, -, h5, h6, h7, -⟩ := regWrite_frame d v s
    exact ⟨h1, h2, h3, h5, h6, h7⟩

/-- A WRITE1 that errs changed nothing (R115, D11). -/
theorem regionWrite_error {r : Region} {a : Addr} {v : Byte} {s : State} {e : ErrStatus}
    (h : (regionWrite r a v s).1 = .error e) : (regionWrite r a v s).2 = s := by
  rcases regionWrite_cases r a v s with ⟨c, -, h'⟩ | ⟨-, w, h'⟩ | ⟨-, h'⟩ | ⟨-, d, -, h'⟩ <;> rw [h'] at h ⊢
  · cases h
  · cases h
  · exact regWrite_error h

/-- A WRITE1 changes no cell but the one its address reaches. -/
theorem regionWrite_readCell {r : Region} {a : Addr} {v : Byte} {s : State} {c : Cell} (h : regionCell r a s ≠ some c) :
    (regionWrite r a v s).2.readCell c = s.readCell c := by
  rcases regionWrite_cases r a v s with ⟨d, hd, h'⟩ | ⟨-, w, h'⟩ | ⟨-, h'⟩ | ⟨-, d, -, h'⟩ <;> rw [h']
  · exact State.readCell_writeCell_other s v fun hcd => h (hcd ▸ hd)
  · rfl
  · unfold State.readCell
    rw [(regWrite_frame d v s).2.2.2.2.2.2.2]

/-! ### Invariants -/

theorem storesOk_mem {s : State} (h : StoresOk s) (st : Store) : storeOk (s.mem st) (st.size s) := by
  obtain ⟨h1, h2, h3, h4, h5, h6, h7⟩ := h
  cases st <;> assumption

theorem writeCell_storesOk {s : State} (h : StoresOk s) {c : Cell} (hc : c.index < c.store.size s) (v : Byte) :
    StoresOk (s.writeCell c v) := by
  obtain ⟨hwf, hbelow⟩ := storesOk_mem h c.store
  have hnew : storeOk ((s.mem c.store).write c.index v) (c.store.size s) :=
    ⟨Memory.write_wf hwf _ _, Memory.write_below hbelow hc _⟩
  obtain ⟨h1, h2, h3, h4, h5, h6, h7⟩ := h
  obtain ⟨st, i⟩ := c
  cases st
  · exact ⟨h1, h2, h3, hnew, h5, h6, h7⟩
  · exact ⟨hnew, h2, h3, h4, h5, h6, h7⟩
  · exact ⟨h1, h2, h3, h4, hnew, h6, h7⟩
  · exact ⟨h1, hnew, h3, h4, h5, h6, h7⟩
  · exact ⟨h1, h2, h3, h4, h5, hnew, h7⟩

/-- Between operations the invariant speaks of these fields only. -/
theorem inv_congr {s t : State} (h : s.Inv) (hh : s.hold = none) (hv : t.vram = s.vram) (ho : t.oam = s.oam) (hr : t.rom = s.rom)
    (hw : t.wram = s.wram) (hz : t.zram = s.zram) (hm : MapsInSync t) (he : SameEngine s t) (hc : SameChannel s t)
    (hl : t.romLen = s.romLen) : t.Inv := by
  obtain ⟨⟨s1, s2, s3, s4, s5, s6, s7⟩, -, ⟨c1, c2, c3⟩, q1, q2, q3⟩ := h
  obtain ⟨e1, e2, e3, e4, e5, e6⟩ := he
  obtain ⟨k1, k2⟩ := hc
  refine ⟨⟨hv ▸ s1, ho ▸ s2, e4 ▸ s3, ?_, hw ▸ s5, hz ▸ s6, hl ▸ s7⟩, hm, ⟨k1 ▸ c1, ?_, k1 ▸ c3⟩, e1 ▸ q1, ?_, ?_⟩
  · rw [hl, hr]; exact s4
  · rw [k1, k2]; exact c2
  · rw [e6, e2]; exact q2
  · rw [e6, hh]
    exact fun hne => absurd rfl hne

theorem regionRead_inv {r : Region} {a : Addr} {s : State} (h : s.Inv) : (regionRead r a s).2.Inv := by
  rw [(regionRead_state r a s).1]
  exact h

/-- A WRITE1 inside the store it reaches keeps the invariants, with no ADV in progress: none is accepted otherwise (R81). -/
theorem regionWrite_inv {r : Region} {a : Addr} {v : Byte} {s : State} (h : s.Inv) (hh : s.hold = none)
    (hc : ∀ c, regionCell r a s = some c → c.index < c.store.size s) : (regionWrite r a v s).2.Inv := by
  obtain ⟨he, hch, ⟨hl, -⟩, -⟩ := regionWrite_frame r a v s
  rcases regionWrite_cases r a v s with ⟨c, hcell, h'⟩ | ⟨-, w, h'⟩ | ⟨-, h'⟩ | ⟨-, d, -, h'⟩ <;> rw [h'] at he hch hl ⊢
  · have hst := writeCell_storesOk h.1 (hc c hcell) v
    refine ⟨hst, ?_, ?_, ?_⟩
    · simpa [MapsInSync] using h.2.1
    · simpa [ChannelOk] using h.2.2.1
    · simpa [SequencerOk, vblankPending, lcdEnabled] using h.2.2.2
  · exact h
  · exact h
  · have hm := (regWrite_frame d v s).2.2.2.2.2.2.2
    exact inv_congr h hh (hm .vram) (hm .oam) (hm .rom) (hm .wram) (hm .zram) (regWrite_maps h.2.1) he hch hl

end Sys2Proof.Machine
end

