-- ==== Sys2Proof/Laws/Render.lean ====
section
/-! SUPPORT. What the renderer reads and writes. -/

namespace Sys2Proof.Machine

/-! ### A rendered line changes FB only -/

@[simp] theorem renderLine_lcdc (s : State) (y : Nat) : (renderLine s y).lcdc = s.lcdc := rfl
@[simp] theorem renderLine_stat (s : State) (y : Nat) : (renderLine s y).stat = s.stat := rfl
@[simp] theorem renderLine_scy (s : State) (y : Nat) : (renderLine s y).scy = s.scy := rfl
@[simp] theorem renderLine_scx (s : State) (y : Nat) : (renderLine s y).scx = s.scx := rfl
@[simp] theorem renderLine_ly (s : State) (y : Nat) : (renderLine s y).ly = s.ly := rfl
@[simp] theorem renderLine_bgp (s : State) (y : Nat) : (renderLine s y).bgp = s.bgp := rfl
@[simp] theorem renderLine_obp0 (s : State) (y : Nat) : (renderLine s y).obp0 = s.obp0 := rfl
@[simp] theorem renderLine_obp1 (s : State) (y : Nat) : (renderLine s y).obp1 = s.obp1 := rfl
@[simp] theorem renderLine_wy (s : State) (y : Nat) : (renderLine s y).wy = s.wy := rfl
@[simp] theorem renderLine_wx (s : State) (y : Nat) : (renderLine s y).wx = s.wx := rfl
@[simp] theorem renderLine_ifl (s : State) (y : Nat) : (renderLine s y).ifl = s.ifl := rfl
@[simp] theorem renderLine_clk (s : State) (y : Nat) : (renderLine s y).clk = s.clk := rfl
@[simp] theorem renderLine_bgmap (s : State) (y : Nat) : (renderLine s y).bgmap = s.bgmap := rfl
@[simp] theorem renderLine_obmap0 (s : State) (y : Nat) : (renderLine s y).obmap0 = s.obmap0 := rfl
@[simp] theorem renderLine_obmap1 (s : State) (y : Nat) : (renderLine s y).obmap1 = s.obmap1 := rfl
@[simp] theorem renderLine_vram (s : State) (y : Nat) : (renderLine s y).vram = s.vram := rfl
@[simp] theorem renderLine_oam (s : State) (y : Nat) : (renderLine s y).oam = s.oam := rfl
@[simp] theorem renderLine_rom (s : State) (y : Nat) : (renderLine s y).rom = s.rom := rfl
@[simp] theorem renderLine_romLen (s : State) (y : Nat) : (renderLine s y).romLen = s.romLen := rfl
@[simp] theorem renderLine_wram (s : State) (y : Nat) : (renderLine s y).wram = s.wram := rfl
@[simp] theorem renderLine_zram (s : State) (y : Nat) : (renderLine s y).zram = s.zram := rfl
@[simp] theorem renderLine_serial (s : State) (y : Nat) : (renderLine s y).serial = s.serial := rfl
@[simp] theorem renderLine_queue (s : State) (y : Nat) : (renderLine s y).queue = s.queue := rfl
@[simp] theorem renderLine_connected (s : State) (y : Nat) : (renderLine s y).connected = s.connected := rfl
@[simp] theorem renderLine_phase (s : State) (y : Nat) : (renderLine s y).phase = s.phase := rfl
@[simp] theorem renderLine_events (s : State) (y : Nat) : (renderLine s y).events = s.events := rfl
@[simp] theorem renderLine_hold (s : State) (y : Nat) : (renderLine s y).hold = s.hold := rfl
@[simp] theorem renderLine_resp (s : State) (y : Nat) : (renderLine s y).resp = s.resp := rfl
@[simp] theorem renderLine_dresp (s : State) (y : Nat) : (renderLine s y).dresp = s.dresp := rfl
@[simp] theorem renderLine_byteRes (s : State) (y : Nat) : (renderLine s y).byteRes = s.byteRes := rfl
@[simp] theorem renderLine_inputs (s : State) (y : Nat) : (renderLine s y).inputs = s.inputs := rfl

@[simp] theorem renderLine_readCell (s : State) (y : Nat) (c : Cell) : (renderLine s y).readCell c = s.readCell c := rfl

/-! ### The bytes of a row -/

theorem flatMap_replicate_getElem? (f : Nat → Byte) (n x c : Nat) (hc : c < 3) :
    ((List.range n).flatMap fun x => List.replicate 3 (f x))[x * 3 + c]? = if x < n then some (f x) else none := by
  induction n with
  | zero => simp
  | succ n ih =>
    have hlen : ((List.range n).flatMap fun x => List.replicate 3 (f x)).length = n * 3 := by simp [List.length_flatMap]
    rw [List.range_succ, List.flatMap_append]
    rcases Nat.lt_trichotomy x n with h | h | h
    · rw [List.getElem?_append_left (by omega), ih, if_pos h, if_pos (by omega)]
    · subst h
      rw [List.getElem?_append_right (by omega), hlen, Nat.add_sub_cancel_left, if_pos (by omega)]
      interval_cases c <;> simp
    · rw [List.getElem?_append_right (by omega), hlen, if_neg (by omega)]
      simp [List.flatMap_cons]
      omega

theorem rowBytes_length (s : State) (y : Nat) : (rowBytes s y).length = 480 := by
  simp [rowBytes, List.length_flatMap]

theorem rowBytes_getElem? (s : State) (y : Nat) {k : Nat} (hk : k < 480) : (rowBytes s y)[k]? = some (pixel s (k / 3) y) := by
  have h := flatMap_replicate_getElem? (fun x => pixel s x y) 160 (k / 3) (k % 3) (Nat.mod_lt _ (by decide))
  rw [if_pos (by omega), show k / 3 * 3 + k % 3 = k by omega] at h
  exact h

/-- FB after a rendered line: row `y` is the row's pixels, every other byte as before (R175, R187). -/
theorem renderLine_fb_read (s : State) (y i : Nat) :
    (renderLine s y).fb.read i =
      if y * 480 ≤ i ∧ i < y * 480 + 480 then pixel s ((i - y * 480) / 3) y else s.fb.read i := by
  have hbase : fbIndex 0 y 0 = y * 480 := by
    simp only [fbIndex, Config.fbWidth, Config.channels]
    omega
  show (s.fb.splice (fbIndex 0 y 0) (rowBytes s y)).read i = _
  rw [Memory.read_splice, rowBytes_length, hbase]
  split
  · rename_i h
    rw [rowBytes_getElem? s y (by omega)]
    rfl
  · rfl

/-- What the renderer reads: LCDC bits 4 and 3, SCY, SCX, VRAM and BGMAP, nothing else (R185). -/
theorem pixel_congr {s t : State} (h4 : tileSelUnsigned t = tileSelUnsigned s) (h3 : mapSelHigh t = mapSelHigh s)
    (hy : t.scy = s.scy) (hx : t.scx = s.scx) (hv : t.vram = s.vram) (hm : t.bgmap = s.bgmap) (x y : Nat) :
    pixel t x y = pixel s x y := by
  unfold pixel bgRow bgCol vramByte State.readCell State.mem
  rw [h4, h3, hy, hx, hv, hm]

/-- Every intensity of a decoded map is one of the four of R184. -/
theorem palDecode_get (p : Byte) (id : BitVec 2) :
    (palDecode p).get id = 255 ∨ (palDecode p).get id = 192 ∨ (palDecode p).get id = 96 ∨ (palDecode p).get id = 0 := by
  have hs : ∀ g : BitVec 2, shade g = 255 ∨ shade g = 192 ∨ shade g = 96 ∨ shade g = 0 := by decide
  unfold PalMap.get palDecode
  split <;> exact hs _

end Sys2Proof.Machine
end

