-- ==== Sys2Proof/Laws/CycleAdvance.lean ====
section
/-! SUPPORT. What a line step, a hand-off and the loop of ADV can do, said once. -/

namespace Sys2Proof.Machine

/-! ### A hand-off -/

@[simp] theorem handOff_lcdc (s : State) : (handOff s).lcdc = s.lcdc := by
  unfold handOff
  split <;> simp_all
@[simp] theorem handOff_stat (s : State) : (handOff s).stat = s.stat := by
  unfold handOff
  split <;> simp_all
@[simp] theorem handOff_scy (s : State) : (handOff s).scy = s.scy := by
  unfold handOff
  split <;> simp_all
@[simp] theorem handOff_scx (s : State) : (handOff s).scx = s.scx := by
  unfold handOff
  split <;> simp_all
@[simp] theorem handOff_ly (s : State) : (handOff s).ly = s.ly := by
  unfold handOff
  split <;> simp_all
@[simp] theorem handOff_bgp (s : State) : (handOff s).bgp = s.bgp := by
  unfold handOff
  split <;> simp_all
@[simp] theorem handOff_obp0 (s : State) : (handOff s).obp0 = s.obp0 := by
  unfold handOff
  split <;> simp_all
@[simp] theorem handOff_obp1 (s : State) : (handOff s).obp1 = s.obp1 := by
  unfold handOff
  split <;> simp_all
@[simp] theorem handOff_wy (s : State) : (handOff s).wy = s.wy := by
  unfold handOff
  split <;> simp_all
@[simp] theorem handOff_wx (s : State) : (handOff s).wx = s.wx := by
  unfold handOff
  split <;> simp_all
@[simp] theorem handOff_ifl (s : State) : (handOff s).ifl = s.ifl := by
  unfold handOff
  split <;> simp_all
@[simp] theorem handOff_clk (s : State) : (handOff s).clk = s.clk := by
  unfold handOff
  split <;> simp_all
@[simp] theorem handOff_bgmap (s : State) : (handOff s).bgmap = s.bgmap := by
  unfold handOff
  split <;> simp_all
@[simp] theorem handOff_obmap0 (s : State) : (handOff s).obmap0 = s.obmap0 := by
  unfold handOff
  split <;> simp_all
@[simp] theorem handOff_obmap1 (s : State) : (handOff s).obmap1 = s.obmap1 := by
  unfold handOff
  split <;> simp_all
@[simp] theorem handOff_vram (s : State) : (handOff s).vram = s.vram := by
  unfold handOff
  split <;> simp_all
@[simp] theorem handOff_oam (s : State) : (handOff s).oam = s.oam := by
  unfold handOff
  split <;> simp_all
@[simp] theorem handOff_fb (s : State) : (handOff s).fb = [] := by
  unfold handOff
  split <;> simp_all
@[simp] theorem handOff_rom (s : State) : (handOff s).rom = s.rom := by
  unfold handOff
  split <;> simp_all
@[simp] theorem handOff_romLen (s : State) : (handOff s).romLen = s.romLen := by
  unfold handOff
  split <;> simp_all
@[simp] theorem handOff_wram (s : State) : (handOff s).wram = s.wram := by
  unfold handOff
  split <;> simp_all
@[simp] theorem handOff_zram (s : State) : (handOff s).zram = s.zram := by
  unfold handOff
  split <;> simp_all
@[simp] theorem handOff_serial (s : State) : (handOff s).serial = s.serial := by
  unfold handOff
  split <;> simp_all
@[simp] theorem handOff_queue (s : State) : (handOff s).queue = if s.connected then s.queue ++ [s.fb] else s.queue := by
  unfold handOff
  split <;> simp_all
@[simp] theorem handOff_connected (s : State) : (handOff s).connected = s.connected := by
  unfold handOff
  split <;> simp_all
@[simp] theorem handOff_phase (s : State) : (handOff s).phase = s.phase := by
  unfold handOff
  split <;> simp_all
@[simp] theorem handOff_events (s : State) : (handOff s).events = s.events ++ [if s.connected then .deliver s.fb else .drop] := by
  unfold handOff
  split <;> simp_all
@[simp] theorem handOff_hold (s : State) : (handOff s).hold = s.hold := by
  unfold handOff
  split <;> simp_all
@[simp] theorem handOff_resp (s : State) : (handOff s).resp = s.resp := by
  unfold handOff
  split <;> simp_all
@[simp] theorem handOff_dresp (s : State) : (handOff s).dresp = s.dresp := by
  unfold handOff
  split <;> simp_all
@[simp] theorem handOff_byteRes (s : State) : (handOff s).byteRes = s.byteRes := by
  unfold handOff
  split <;> simp_all
@[simp] theorem handOff_inputs (s : State) : (handOff s).inputs = s.inputs := by
  unfold handOff
  split <;> simp_all

/-! ### A line step -/

@[simp] theorem lineStep_lcdc (s : State) : (lineStep s).lcdc = s.lcdc := by
  unfold lineStep
  simp only []
  split_ifs <;> simp
@[simp] theorem lineStep_stat (s : State) : (lineStep s).stat = s.stat := by
  unfold lineStep
  simp only []
  split_ifs <;> simp
@[simp] theorem lineStep_scy (s : State) : (lineStep s).scy = s.scy := by
  unfold lineStep
  simp only []
  split_ifs <;> simp
@[simp] theorem lineStep_scx (s : State) : (lineStep s).scx = s.scx := by
  unfold lineStep
  simp only []
  split_ifs <;> simp
@[simp] theorem lineStep_ly (s : State) : (lineStep s).ly = nextLine s.ly := by
  unfold lineStep
  simp only []
  split_ifs <;> simp
@[simp] theorem lineStep_bgp (s : State) : (lineStep s).bgp = s.bgp := by
  unfold lineStep
  simp only []
  split_ifs <;> simp
@[simp] theorem lineStep_obp0 (s : State) : (lineStep s).obp0 = s.obp0 := by
  unfold lineStep
  simp only []
  split_ifs <;> simp
@[simp] theorem lineStep_obp1 (s : State) : (lineStep s).obp1 = s.obp1 := by
  unfold lineStep
  simp only []
  split_ifs <;> simp
@[simp] theorem lineStep_wy (s : State) : (lineStep s).wy = s.wy := by
  unfold lineStep
  simp only []
  split_ifs <;> simp
@[simp] theorem lineStep_wx (s : State) : (lineStep s).wx = s.wx := by
  unfold lineStep
  simp only []
  split_ifs <;> simp
@[simp] theorem lineStep_clk (s : State) : (lineStep s).clk = s.clk - 114 := by
  unfold lineStep
  simp only []
  split_ifs <;> simp
@[simp] theorem lineStep_bgmap (s : State) : (lineStep s).bgmap = s.bgmap := by
  unfold lineStep
  simp only []
  split_ifs <;> simp
@[simp] theorem lineStep_obmap0 (s : State) : (lineStep s).obmap0 = s.obmap0 := by
  unfold lineStep
  simp only []
  split_ifs <;> simp
@[simp] theorem lineStep_obmap1 (s : State) : (lineStep s).obmap1 = s.obmap1 := by
  unfold lineStep
  simp only []
  split_ifs <;> simp
@[simp] theorem lineStep_vram (s : State) : (lineStep s).vram = s.vram := by
  unfold lineStep
  simp only []
  split_ifs <;> simp
@[simp] theorem lineStep_oam (s : State) : (lineStep s).oam = s.oam := by
  unfold lineStep
  simp only []
  split_ifs <;> simp
@[simp] theorem lineStep_rom (s : State) : (lineStep s).rom = s.rom := by
  unfold lineStep
  simp only []
  split_ifs <;> simp
@[simp] theorem lineStep_romLen (s : State) : (lineStep s).romLen = s.romLen := by
  unfold lineStep
  simp only []
  split_ifs <;> simp
@[simp] theorem lineStep_wram (s : State) : (lineStep s).wram = s.wram := by
  unfold lineStep
  simp only []
  split_ifs <;> simp
@[simp] theorem lineStep_zram (s : State) : (lineStep s).zram = s.zram := by
  unfold lineStep
  simp only []
  split_ifs <;> simp
@[simp] theorem lineStep_serial (s : State) : (lineStep s).serial = s.serial := by
  unfold lineStep
  simp only []
  split_ifs <;> simp
@[simp] theorem lineStep_queue (s : State) : (lineStep s).queue = s.queue := by
  unfold lineStep
  simp only []
  split_ifs <;> simp
@[simp] theorem lineStep_connected (s : State) : (lineStep s).connected = s.connected := by
  unfold lineStep
  simp only []
  split_ifs <;> simp
@[simp] theorem lineStep_phase (s : State) : (lineStep s).phase = s.phase := by
  unfold lineStep
  simp only []
  split_ifs <;> simp
@[simp] theorem lineStep_events (s : State) : (lineStep s).events = s.events := by
  unfold lineStep
  simp only []
  split_ifs <;> simp
@[simp] theorem lineStep_hold (s : State) : (lineStep s).hold = s.hold := by
  unfold lineStep
  simp only []
  split_ifs <;> simp
@[simp] theorem lineStep_resp (s : State) : (lineStep s).resp = s.resp := by
  unfold lineStep
  simp only []
  split_ifs <;> simp
@[simp] theorem lineStep_dresp (s : State) : (lineStep s).dresp = s.dresp := by
  unfold lineStep
  simp only []
  split_ifs <;> simp
@[simp] theorem lineStep_byteRes (s : State) : (lineStep s).byteRes = s.byteRes := by
  unfold lineStep
  simp only []
  split_ifs <;> simp
@[simp] theorem lineStep_inputs (s : State) : (lineStep s).inputs = s.inputs := by
  unfold lineStep
  simp only []
  split_ifs <;> simp


/-- IF after a line step: bit 0 is set on landing on line 144, and nothing else changes it (R164). -/
theorem lineStep_ifl (s : State) :
    (lineStep s).ifl = if (nextLine s.ly).toNat = 144 then setVblank s.ifl else s.ifl := by
  unfold lineStep
  simp only []
  split_ifs with h1 h2 h3 <;> simp_all

/-- FB after a line step: the line landed on is rendered if it is visible (R163). -/
theorem lineStep_fb (s : State) :
    (lineStep s).fb =
      if (nextLine s.ly).toNat < 144 then s.fb.splice (fbIndex 0 (nextLine s.ly).toNat 0) (rowBytes s (nextLine s.ly).toNat)
      else s.fb := by
  unfold lineStep
  simp only []
  split_ifs with h1 h2 h3 <;> first | rfl | simp_all

@[simp] theorem nextLine_toNat (ly : Byte) : (nextLine ly).toNat = (ly.toNat + 1) % 154 := by
  simp only [nextLine, Config.linesPerFrame, BitVec.toNat_ofNat]
  omega

theorem nextLine_lt (ly : Byte) : (nextLine ly).toNat < 154 := by
  simp only [nextLine, Config.linesPerFrame, BitVec.toNat_ofNat]
  omega

/-- A line step onto a visible line (R162, R163). -/
theorem lineStep_visible {s : State} (h : (s.ly.toNat + 1) % 154 < 144) :
    lineStep s = renderLine { s with clk := s.clk - 114, ly := nextLine s.ly } ((s.ly.toNat + 1) % 154) := by
  have hn : (nextLine s.ly).toNat < 144 := by rwa [nextLine_toNat]
  rw [← nextLine_toNat]
  exact if_pos hn

/-- A line step onto line 144 (R162, R164). -/
theorem lineStep_vblank {s : State} (h : (s.ly.toNat + 1) % 154 = 144) :
    lineStep s = { s with clk := s.clk - 114, ly := nextLine s.ly, ifl := setVblank s.ifl } := by
  have hn : (nextLine s.ly).toNat = 144 := by rwa [nextLine_toNat]
  exact (if_neg (show ¬ (nextLine s.ly).toNat < 144 by omega)).trans (if_pos hn)

/-- A line step onto a line from 145 up (R162). -/
theorem lineStep_blank {s : State} (h : 145 ≤ (s.ly.toNat + 1) % 154) :
    lineStep s = { s with clk := s.clk - 114, ly := nextLine s.ly } := by
  have hn : 145 ≤ (nextLine s.ly).toNat := by rwa [nextLine_toNat]
  exact (if_neg (show ¬ (nextLine s.ly).toNat < 144 by omega)).trans (if_neg (show ¬ (nextLine s.ly).toNat = 144 by omega))

/-- The entries into line 144 among the next `k + 1` line steps: the next one, if it is one, and those of the `k` after it. -/
theorem vblankEntries_succ (ly : Byte) (k : Nat) :
    vblankEntries ly.toNat (k + 1) =
      (if (nextLine ly).toNat = 144 then 1 else 0) + vblankEntries (nextLine ly).toNat k := by
  have hshift : ((fun j => decide ((ly.toNat + (j + 1)) % Config.linesPerFrame = Config.vblankLine)) ∘ Nat.succ) =
      fun j => decide (((nextLine ly).toNat + (j + 1)) % Config.linesPerFrame = Config.vblankLine) := by
    funext j
    rw [Function.comp_apply, decide_eq_decide, nextLine_toNat]
    simp only [Config.linesPerFrame, Config.vblankLine]
    omega
  rw [vblankEntries, vblankEntries, List.range_succ_eq_map, List.filter_cons, List.filter_map, hshift]
  simp only [zero_add, decide_eq_true_eq, nextLine_toNat, Config.linesPerFrame, Config.vblankLine]
  split <;> simp [Nat.add_comm]

/-! ### The loop of ADV -/

@[simp] theorem advDone_eq (dropped : Bool) (s : State) : advDone dropped s = s.respond (.done (advStatus dropped) 0) := rfl

@[simp] theorem advHold_lcdc (s : State) (dropped : Bool) : (advHold dropped s).lcdc = s.lcdc := rfl
@[simp] theorem advHold_stat (s : State) (dropped : Bool) : (advHold dropped s).stat = s.stat := rfl
@[simp] theorem advHold_scy (s : State) (dropped : Bool) : (advHold dropped s).scy = s.scy := rfl
@[simp] theorem advHold_scx (s : State) (dropped : Bool) : (advHold dropped s).scx = s.scx := rfl
@[simp] theorem advHold_ly (s : State) (dropped : Bool) : (advHold dropped s).ly = s.ly := rfl
@[simp] theorem advHold_bgp (s : State) (dropped : Bool) : (advHold dropped s).bgp = s.bgp := rfl
@[simp] theorem advHold_obp0 (s : State) (dropped : Bool) : (advHold dropped s).obp0 = s.obp0 := rfl
@[simp] theorem advHold_obp1 (s : State) (dropped : Bool) : (advHold dropped s).obp1 = s.obp1 := rfl
@[simp] theorem advHold_wy (s : State) (dropped : Bool) : (advHold dropped s).wy = s.wy := rfl
@[simp] theorem advHold_wx (s : State) (dropped : Bool) : (advHold dropped s).wx = s.wx := rfl
@[simp] theorem advHold_ifl (s : State) (dropped : Bool) : (advHold dropped s).ifl = s.ifl := rfl
@[simp] theorem advHold_clk (s : State) (dropped : Bool) : (advHold dropped s).clk = s.clk := rfl
@[simp] theorem advHold_bgmap (s : State) (dropped : Bool) : (advHold dropped s).bgmap = s.bgmap := rfl
@[simp] theorem advHold_obmap0 (s : State) (dropped : Bool) : (advHold dropped s).obmap0 = s.obmap0 := rfl
@[simp] theorem advHold_obmap1 (s : State) (dropped : Bool) : (advHold dropped s).obmap1 = s.obmap1 := rfl
@[simp] theorem advHold_vram (s : State) (dropped : Bool) : (advHold dropped s).vram = s.vram := rfl
@[simp] theorem advHold_oam (s : State) (dropped : Bool) : (advHold dropped s).oam = s.oam := rfl
@[simp] theorem advHold_fb (s : State) (dropped : Bool) : (advHold dropped s).fb = s.fb := rfl
@[simp] theorem advHold_rom (s : State) (dropped : Bool) : (advHold dropped s).rom = s.rom := rfl
@[simp] theorem advHold_romLen (s : State) (dropped : Bool) : (advHold dropped s).romLen = s.romLen := rfl
@[simp] theorem advHold_wram (s : State) (dropped : Bool) : (advHold dropped s).wram = s.wram := rfl
@[simp] theorem advHold_zram (s : State) (dropped : Bool) : (advHold dropped s).zram = s.zram := rfl
@[simp] theorem advHold_serial (s : State) (dropped : Bool) : (advHold dropped s).serial = s.serial := rfl
@[simp] theorem advHold_queue (s : State) (dropped : Bool) : (advHold dropped s).queue = s.queue := rfl
@[simp] theorem advHold_connected (s : State) (dropped : Bool) : (advHold dropped s).connected = s.connected := rfl
@[simp] theorem advHold_phase (s : State) (dropped : Bool) : (advHold dropped s).phase = s.phase := rfl
@[simp] theorem advHold_events (s : State) (dropped : Bool) : (advHold dropped s).events = s.events := rfl
@[simp] theorem advHold_hold (s : State) (dropped : Bool) : (advHold dropped s).hold = some ⟨dropped⟩ := rfl
@[simp] theorem advHold_resp (s : State) (dropped : Bool) : (advHold dropped s).resp = none := rfl
@[simp] theorem advHold_dresp (s : State) (dropped : Bool) : (advHold dropped s).dresp = s.dresp := rfl
@[simp] theorem advHold_byteRes (s : State) (dropped : Bool) : (advHold dropped s).byteRes = s.byteRes := rfl
@[simp] theorem advHold_inputs (s : State) (dropped : Bool) : (advHold dropped s).inputs = s.inputs := rfl

/-- The loop with a line step to do. -/
theorem advLoop_succ (fuel : Nat) (dropped : Bool) {s : State} (h : 114 ≤ s.clk) :
    advLoop (fuel + 1) dropped s =
      if (lineStep s).ly.toNat = 144 then
        if canHandOff (lineStep s) then advLoop fuel (dropped || !s.connected) (handOff (lineStep s))
        else advHold dropped (lineStep s)
      else advLoop fuel dropped (lineStep s) := by
  conv_lhs => unfold advLoop
  simp only [Config.cyclesPerLine, Config.vblankLine, lineStep_connected]
  rw [if_neg (by omega)]

/-- With less than a line on CLK the loop ends. -/
theorem runLines_done (dropped : Bool) {s : State} (h : s.clk < 114) : runLines dropped s = advDone dropped s := by
  have h0 : s.clk / Config.cyclesPerLine = 0 := Nat.div_eq_of_lt h
  rw [runLines, h0]
  rfl

/-- With a line on CLK the loop makes one line step, and goes on, hands off and goes on, or holds. -/
theorem runLines_line (dropped : Bool) {s : State} (h : 114 ≤ s.clk) :
    runLines dropped s =
      if (nextLine s.ly).toNat = 144 then
        if canHandOff s then runLines (dropped || !s.connected) (handOff (lineStep s)) else advHold dropped (lineStep s)
      else runLines dropped (lineStep s) := by
  obtain ⟨k, hk⟩ : ∃ k, s.clk / Config.cyclesPerLine = k + 1 :=
    ⟨s.clk / 114 - 1, by simp only [Config.cyclesPerLine]; omega⟩
  have hk' : (s.clk - 114) / 114 = k := by
    simp only [Config.cyclesPerLine] at hk
    omega
  have hcan : canHandOff (lineStep s) = canHandOff s := by simp [canHandOff]
  have hfuel : ∀ t : State, t.clk = s.clk - 114 → t.clk / Config.cyclesPerLine = k := fun t ht => by
    rw [ht]
    exact hk'
  conv_lhs => rw [runLines, hk, advLoop_succ k dropped h, lineStep_ly, hcan]
  rw [runLines, runLines, hfuel _ (by rw [handOff_clk, lineStep_clk]), hfuel _ (lineStep_clk s)]

/-- The flag `dropped` that the loop starts with only shows in how it ends: set, it stays set (R160). -/
theorem runLines_dropped (d b : Bool) (s : State) :
    (∃ e t, runLines b s = advDone e t ∧ runLines (d || b) s = advDone (d || e) t) ∨
    (∃ e t, runLines b s = advHold e t ∧ runLines (d || b) s = advHold (d || e) t) := by
  obtain ⟨k, hk⟩ : ∃ k, s.clk / 114 = k := ⟨_, rfl⟩
  induction k generalizing b s with
  | zero =>
    have hclk : s.clk < 114 := by omega
    exact .inl ⟨b, s, runLines_done b hclk, runLines_done _ hclk⟩
  | succ k ih =>
    have hclk : 114 ≤ s.clk := by omega
    rw [runLines_line b hclk, runLines_line (d || b) hclk]
    split
    · split
      · rw [Bool.or_assoc]
        exact ih _ _ (by rw [handOff_clk, lineStep_clk]; omega)
      · exact .inr ⟨b, lineStep s, rfl, rfl⟩
    · exact ih _ _ (by rw [lineStep_clk]; omega)

/-- A held ADV whose hold is lifted hands off and goes on (R191, R192). -/
theorem proceed_lifted {s : State} {h : HeldAdv} (hh : s.hold = some h) (hcan : canHandOff s = true) :
    proceed s = runLines (h.dropped || !s.connected) (handOff { s with hold := none }) := by
  simp only [proceed, hh, hcan, if_true]

/-- A hold that is not lifted stays (R192). -/
theorem proceed_held {s : State} (hcan : canHandOff s = false) : proceed s = s := by
  unfold proceed
  split
  · rfl
  · simp only [hcan, Bool.false_eq_true, if_false]

theorem execAdv_enabled (n : Nat) {s : State} (h : s.lcdc.getLsbD 7 = true) :
    execAdv n s = .next (runLines false { s with clk := s.clk + n }) :=
  if_pos h

theorem execAdv_disabled (n : Nat) {s : State} (h : s.lcdc.getLsbD 7 = false) :
    execAdv n s = .next (s.respond (.done .ok 0)) :=
  if_neg (by simp only [lcdEnabled, h, Bool.false_eq_true, not_false_eq_true])

/-- Everything the loop can do: whatever line steps and hand-offs keep holds of the state it leaves, and it leaves it either
done, with less than a line on CLK, or held at a hand-off just after landing on line 144. -/
theorem advLoop_cases {P : State → Prop} (hline : ∀ s, P s → 114 ≤ s.clk → P (lineStep s))
    (hhand : ∀ s, P s → s.ly.toNat = 144 → canHandOff s = true → P (handOff s))
    (fuel : Nat) (dropped : Bool) (s : State) (hfuel : s.clk / 114 = fuel) (h : P s) :
    (∃ d t, P t ∧ t.clk < 114 ∧ advLoop fuel dropped s = advDone d t) ∨
    (∃ d r, P r ∧ P (lineStep r) ∧ 114 ≤ r.clk ∧ (nextLine r.ly).toNat = 144 ∧ canHandOff (lineStep r) = false ∧
      advLoop fuel dropped s = advHold d (lineStep r)) := by
  induction fuel generalizing dropped s with
  | zero => exact .inl ⟨dropped, s, h, by omega, rfl⟩
  | succ fuel ih =>
    have hclk : 114 ≤ s.clk := by omega
    have h1 : P (lineStep s) := hline s h hclk
    rw [advLoop_succ fuel dropped hclk]
    by_cases hly : (lineStep s).ly.toNat = 144
    · rw [if_pos hly]
      cases hcan : canHandOff (lineStep s)
      · exact .inr ⟨dropped, s, h, h1, hclk, by simpa using hly, hcan, rfl⟩
      · exact ih _ _ (by rw [handOff_clk, lineStep_clk]; omega) (hhand _ h1 hly hcan)
    · rw [if_neg hly]
      exact ih _ _ (by rw [lineStep_clk]; omega) h1

/-- `advLoop_cases` for the loop of ADV from where CLK stands. -/
theorem runLines_cases {P : State → Prop} (hline : ∀ s, P s → 114 ≤ s.clk → P (lineStep s))
    (hhand : ∀ s, P s → s.ly.toNat = 144 → canHandOff s = true → P (handOff s))
    (dropped : Bool) (s : State) (h : P s) :
    (∃ d t, P t ∧ t.clk < 114 ∧ runLines dropped s = advDone d t) ∨
    (∃ d r, P r ∧ P (lineStep r) ∧ 114 ≤ r.clk ∧ (nextLine r.ly).toNat = 144 ∧ canHandOff (lineStep r) = false ∧
      runLines dropped s = advHold d (lineStep r)) :=
  advLoop_cases hline hhand _ dropped s rfl h

/-! ### What line steps and hand-offs keep -/

theorem canHandOff_iff (s : State) : canHandOff s = true ↔ s.queue = [] ∨ s.connected = false := by
  unfold canHandOff
  simp [List.length_eq_zero_iff]

theorem lineStep_storesOk {s : State} (h : StoresOk s) : StoresOk (lineStep s) := by
  obtain ⟨h1, h2, h3, h4⟩ := h
  refine ⟨by simpa using h1, by simpa using h2, ?_, by simpa using h4⟩
  rw [lineStep_fb]
  split
  · rename_i hly
    refine ⟨Memory.splice_wf h3.1 _ _, Memory.splice_below h3.2 ?_⟩
    simp only [rowBytes_length, fbIndex, Config.fbWidth, Config.channels, Config.fbBytes]
    omega
  · exact h3

theorem handOff_storesOk {s : State} (h : StoresOk s) : StoresOk (handOff s) := by
  obtain ⟨h1, h2, -, h4⟩ := h
  exact ⟨by simpa using h1, by simpa using h2, by simp [storeOk, Memory.wf, Memory.below], by simpa using h4⟩

theorem handOff_channelOk {s : State} (hs : StoresOk s) (h : ChannelOk s) (hcan : canHandOff s = true) : ChannelOk (handOff s) := by
  rw [canHandOff_iff] at hcan
  obtain ⟨h1, h2, h3⟩ := h
  cases hc : s.connected
  · refine ⟨by simpa [hc] using h1, fun _ => by simpa [hc] using h2 hc, by simpa [hc] using h3⟩
  · rcases hcan with hq | hq
    · refine ⟨by simp [hc, hq], by simp [hc], by simpa [hc, hq] using hs.2.2.1⟩
    · rw [hq] at hc
      cases hc

end Sys2Proof.Machine
end

