-- ==== Sys2Proof/Laws/Decode.lean ====
section
/-! SUPPORT. What the decoder's parts read back of the encoder's, and that the address blocks of the opcode table are disjoint. -/

namespace Sys2Proof

/-! ### Fields of an encoded word -/

/-- Concatenation as arithmetic. -/
theorem toNat_append_add {m n : Nat} (x : BitVec m) (y : BitVec n) : (x ++ y).toNat = x.toNat * 2 ^ n + y.toNat := by
  rw [BitVec.toNat_append, ← Nat.shiftLeft_add_eq_or_of_lt y.isLt, Nat.shiftLeft_eq]

theorem reqWord_toNat (op : BitVec 3) (a : Addr) (d : Half) :
    (reqWord op a d).toNat = op.toNat * 2 ^ 32 + a.toNat * 2 ^ 16 + d.toNat := by
  rw [reqWord, toNat_append_add, toNat_append_add]
  omega

@[simp] theorem opField_reqWord (op : BitVec 3) (a : Addr) (d : Half) : opField (reqWord op a d) = op := by
  have h1 := op.isLt
  have h2 := a.isLt
  have h3 := d.isLt
  apply BitVec.eq_of_toNat_eq
  rw [opField, BitVec.extractLsb'_toNat, reqWord_toNat, Nat.shiftRight_eq_div_pow]
  omega

@[simp] theorem addrField_reqWord (op : BitVec 3) (a : Addr) (d : Half) : addrField (reqWord op a d) = a := by
  have h2 := a.isLt
  have h3 := d.isLt
  apply BitVec.eq_of_toNat_eq
  rw [addrField, BitVec.extractLsb'_toNat, reqWord_toNat, Nat.shiftRight_eq_div_pow]
  omega

@[simp] theorem dataField_reqWord (op : BitVec 3) (a : Addr) (d : Half) : dataField (reqWord op a d) = d := by
  have h3 := d.isLt
  apply BitVec.eq_of_toNat_eq
  rw [dataField, BitVec.extractLsb'_toNat, reqWord_toNat, Nat.shiftRight_zero]
  omega

@[simp] theorem low_byte_of_word (v : Byte) : (0#8 ++ v).extractLsb' 0 8 = v := by
  have h := v.isLt
  apply BitVec.eq_of_toNat_eq
  rw [BitVec.extractLsb'_toNat, toNat_append_add, Nat.shiftRight_zero, BitVec.toNat_ofNat]
  omega

theorem accessWord_toNat (a : Addr) (acc : ByteAccess) :
    (accessWord a acc).toNat = match acc with
      | .read => a.toNat
      | .write v => 2 ^ 24 + v.toNat * 2 ^ 16 + a.toNat := by
  cases acc with
  | read =>
    show (0#1 ++ 0#8 ++ a).toNat = _
    rw [toNat_append_add, toNat_append_add]
    simp only [BitVec.toNat_ofNat]
    omega
  | write v =>
    show (1#1 ++ v ++ a).toNat = _
    rw [toNat_append_add, toNat_append_add]
    simp only [BitVec.toNat_ofNat]
    omega

@[simp] theorem accessAddr_word (a : Addr) (acc : ByteAccess) : accessAddr (accessWord a acc) = a := by
  have h := a.isLt
  apply BitVec.eq_of_toNat_eq
  rw [accessAddr, BitVec.extractLsb'_toNat, accessWord_toNat]
  cases acc <;> simp only [Nat.shiftRight_zero] <;> omega

@[simp] theorem accessKind_word (a : Addr) (acc : ByteAccess) : accessKind (accessWord a acc) = acc := by
  have h := a.isLt
  have hflag : (accessWord a acc).extractLsb' 24 1 = match acc with
      | .read => 0
      | .write _ => 1 := by
    apply BitVec.eq_of_toNat_eq
    rw [BitVec.extractLsb'_toNat, accessWord_toNat]
    cases acc with
    | read => simp only [Nat.shiftRight_eq_div_pow]; simp; omega
    | write v =>
      have hv := v.isLt
      simp only [Nat.shiftRight_eq_div_pow]; simp; omega
  unfold accessKind
  cases acc with
  | read => rw [hflag]; rfl
  | write v =>
    have hv := v.isLt
    rw [hflag, if_pos rfl]
    congr 1
    apply BitVec.eq_of_toNat_eq
    rw [BitVec.extractLsb'_toNat, accessWord_toNat]
    simp only [Nat.shiftRight_eq_div_pow]
    omega

/-! ### The address blocks -/

/-- Two rows of the table never agree on the bits that both of their masks keep. -/
theorem addrRows_disjoint : addrRows.Pairwise fun r q => r.pattern &&& q.mask ≠ q.pattern &&& r.mask := by
  simp only [addrRows, addrRowsLow, addrRowsHigh, List.cons_append, List.nil_append]
  decide

/-- Two blocks that hold one address agree on the bits that both of their masks keep. -/
theorem inBlock_agree {a : Addr} {r q : AddrRow} (hr : inBlock a r.mask r.pattern = true)
    (hq : inBlock a q.mask q.pattern = true) : r.pattern &&& q.mask = q.pattern &&& r.mask := by
  simp only [inBlock, beq_iff_eq] at hr hq
  rw [← hr, ← hq, BitVec.and_assoc, BitVec.and_assoc, BitVec.and_comm r.mask]

/-- In a table of disjoint rows the row that holds an address is the only one, and the one that is found. -/
theorem rows_unique {l : List AddrRow} (hl : l.Pairwise fun r q => r.pattern &&& q.mask ≠ q.pattern &&& r.mask) {a : Addr}
    {r : AddrRow} (hr : r ∈ l) (hb : inBlock a r.mask r.pattern = true) :
    l.filter (fun q => inBlock a q.mask q.pattern) = [r] ∧ l.find? (fun q => inBlock a q.mask q.pattern) = some r := by
  induction l with
  | nil => cases hr
  | cons q l ih =>
    rw [List.pairwise_cons] at hl
    rcases List.mem_cons.1 hr with rfl | hr
    · have hnone : l.filter (fun q => inBlock a q.mask q.pattern) = [] := by
        rw [List.filter_eq_nil_iff]
        exact fun q hq hqb => hl.1 q hq (inBlock_agree hb hqb)
      simp [hb, hnone]
    · have hq : inBlock a q.mask q.pattern = false := by
        by_contra h
        exact hl.1 r hr (inBlock_agree (by simpa using h) hb)
      have := ih hl.2 hr
      simp [hq, this]

/-- A row that holds an address is the row that the decoder finds for it. -/
theorem findAddrRow_eq {a : Addr} {r : AddrRow} (hr : r ∈ addrRows) (hb : inBlock a r.mask r.pattern = true) :
    findAddrRow a = some r :=
  (rows_unique addrRows_disjoint hr hb).2

/-- The word of an access that a row holds decodes to the row's operation. -/
theorem decodeAddr_word {a : Addr} (acc : ByteAccess) {r : AddrRow} (hr : r ∈ addrRows)
    (hb : inBlock a r.mask r.pattern = true) : decodeAddr (accessWord a acc) = .ok (r.op a acc) := by
  simp only [decodeAddr, accessAddr_word, accessKind_word, findAddrRow_eq hr hb]

/-- The word of a register row's access decodes to the row's operation. -/
theorem decodeReg_word {a : Addr} (acc : ByteAccess) {r : RegRow} (hf : findRegRow a = some r) :
    decodeReg (accessWord a acc) = .ok (r.op acc) := by
  simp only [decodeReg, accessAddr_word, accessKind_word, hf]

end Sys2Proof
end

