-- ==== Sys2Proof/Laws/PerInstr.lean ====
section
/-! SUPPORT. Family RowEncoding: the canonical word of a well-formed operation matches the operation's own row of the opcode table
(R96, R97 to R100 of 30_encoding.md). -/

namespace Sys2Proof.Laws.RowEncoding

/-- The pattern of an opcode table row, by the format of the row. -/
inductive RowPattern where
  | req35 (mask pattern : BitVec 35)
  | dreq1 (mask pattern : BitVec 1)
  | addr16 (mask pattern : Addr)
  | reg16 (mask pattern : Addr)
  deriving DecidableEq, Repr

/-- A request matches a row of its own format. -/
def RowPattern.matches : RowPattern → Request → Prop
  | .req35 mask pattern, .req35 w => w &&& mask = pattern
  | .dreq1 mask pattern, .dreq1 w => w &&& mask = pattern
  | .addr16 mask pattern, .addr16 w => accessAddr w &&& mask = pattern
  | .reg16 mask pattern, .reg16 w => accessAddr w &&& mask = pattern
  | _, _ => False

/-- The row of the opcode table that an operation is. -/
def row : Instr → RowPattern
  | .rdb _ => .req35 0x700000000 0x000000000
  | .wrb _ _ => .req35 0x700000000 0x100000000
  | .rdw _ => .req35 0x700000000 0x200000000
  | .wrw _ _ => .req35 0x700000000 0x300000000
  | .adv _ => .req35 0x700000000 0x400000000
  | .ifr => .req35 0x700000000 0x500000000
  | .ifw _ => .req35 0x700000000 0x600000000
  | .reservedOp7 => .req35 0x700000000 0x700000000
  | .take => .dreq1 0x1 0x0
  | .disc => .dreq1 0x1 0x1
  | .rom0000 _ _ => .addr16 0x8000 0x0000
  | .vram8000 _ _ => .addr16 0xE000 0x8000
  | .cramA000 _ _ => .addr16 0xE000 0xA000
  | .wramC000 _ _ => .addr16 0xE000 0xC000
  | .wramE000 _ _ => .addr16 0xF000 0xE000
  | .wramF000 _ _ => .addr16 0xF800 0xF000
  | .wramF800 _ _ => .addr16 0xFC00 0xF800
  | .wramFC00 _ _ => .addr16 0xFE00 0xFC00
  | .oamFE00 _ _ => .addr16 0xFF80 0xFE00
  | .oamFE80 _ _ => .addr16 0xFFE0 0xFE80
  | .unmappedFEA0 _ _ => .addr16 0xFFE0 0xFEA0
  | .unmappedFEC0 _ _ => .addr16 0xFFC0 0xFEC0
  | .unmappedFF00 _ => .addr16 0xFFFF 0xFF00
  | .serialFF01 _ => .addr16 0xFFFF 0xFF01
  | .serialFF02 _ => .addr16 0xFFFF 0xFF02
  | .unmappedFF03 _ => .addr16 0xFFFF 0xFF03
  | .unmappedFF04 _ _ => .addr16 0xFFFC 0xFF04
  | .unmappedFF08 _ _ => .addr16 0xFFF8 0xFF08
  | .unmappedFF10 _ _ => .addr16 0xFFF0 0xFF10
  | .unmappedFF20 _ _ => .addr16 0xFFE0 0xFF20
  | .displayFF40 _ _ => .addr16 0xFFF8 0xFF40
  | .displayFF48 _ _ => .addr16 0xFFFC 0xFF48
  | .unmappedFF4C _ _ => .addr16 0xFFFC 0xFF4C
  | .unmappedFF50 _ _ => .addr16 0xFFF0 0xFF50
  | .unmappedFF60 _ _ => .addr16 0xFFE0 0xFF60
  | .zramFF80 _ _ => .addr16 0xFF80 0xFF80
  | .regFF40 _ => .reg16 0xFFFF 0xFF40
  | .regFF41 _ => .reg16 0xFFFF 0xFF41
  | .regFF42 _ => .reg16 0xFFFF 0xFF42
  | .regFF43 _ => .reg16 0xFFFF 0xFF43
  | .regFF44 _ => .reg16 0xFFFF 0xFF44
  | .regFF45 _ => .reg16 0xFFFF 0xFF45
  | .regFF46 _ => .reg16 0xFFFF 0xFF46
  | .regFF47 _ => .reg16 0xFFFF 0xFF47
  | .regFF48 _ => .reg16 0xFFFF 0xFF48
  | .regFF49 _ => .reg16 0xFFFF 0xFF49
  | .regFF4A _ => .reg16 0xFFFF 0xFF4A
  | .regFF4B _ => .reg16 0xFFFF 0xFF4B

/-- The canonical word of a well-formed operation matches its row. -/
def Statement (i : Instr) : Prop := i.wellFormed = true → (row i).matches (encode i)

theorem reqWord_and_mask (op : BitVec 3) (a : Addr) (d : Half) :
    reqWord op a d &&& 0x700000000 = op ++ (0 : Addr) ++ (0 : Half) := by
  show (op ++ a ++ d) &&& ((7#3 ++ 0#16) ++ 0#16) = _
  rw [BitVec.and_append, BitVec.and_append]
  simp only [BitVec.and_zero]
  congr 2
  revert op
  decide

theorem accessWord_matches {a mask pattern : Addr} (acc : ByteAccess) (h : inBlock a mask pattern = true) :
    accessAddr (accessWord a acc) &&& mask = pattern := by
  rw [accessAddr_word]
  exact eq_of_beq h

theorem rdb (addr : Addr) : Statement (.rdb addr) := fun _ => reqWord_and_mask _ _ _

theorem wrb (addr : Addr) (v : Byte) : Statement (.wrb addr v) := fun _ => reqWord_and_mask _ _ _

theorem rdw (addr : Addr) : Statement (.rdw addr) := fun _ => reqWord_and_mask _ _ _

theorem wrw (addr : Addr) (w : Half) : Statement (.wrw addr w) := fun _ => reqWord_and_mask _ _ _

theorem adv (n : Nat) : Statement (.adv n) := fun _ => reqWord_and_mask _ _ _

theorem ifr : Statement .ifr := fun _ => reqWord_and_mask _ _ _

theorem ifw (v : Byte) : Statement (.ifw v) := fun _ => reqWord_and_mask _ _ _

theorem reservedOp7 : Statement .reservedOp7 := fun _ => reqWord_and_mask _ _ _

theorem take : Statement .take := fun _ => rfl

theorem disc : Statement .disc := fun _ => rfl

theorem rom0000 (addr : Addr) (acc : ByteAccess) : Statement (.rom0000 addr acc) := fun h => accessWord_matches acc h

theorem vram8000 (addr : Addr) (acc : ByteAccess) : Statement (.vram8000 addr acc) := fun h => accessWord_matches acc h

theorem cramA000 (addr : Addr) (acc : ByteAccess) : Statement (.cramA000 addr acc) := fun h => accessWord_matches acc h

theorem wramC000 (addr : Addr) (acc : ByteAccess) : Statement (.wramC000 addr acc) := fun h => accessWord_matches acc h

theorem wramE000 (addr : Addr) (acc : ByteAccess) : Statement (.wramE000 addr acc) := fun h => accessWord_matches acc h

theorem wramF000 (addr : Addr) (acc : ByteAccess) : Statement (.wramF000 addr acc) := fun h => accessWord_matches acc h

theorem wramF800 (addr : Addr) (acc : ByteAccess) : Statement (.wramF800 addr acc) := fun h => accessWord_matches acc h

theorem wramFC00 (addr : Addr) (acc : ByteAccess) : Statement (.wramFC00 addr acc) := fun h => accessWord_matches acc h

theorem oamFE00 (addr : Addr) (acc : ByteAccess) : Statement (.oamFE00 addr acc) := fun h => accessWord_matches acc h

theorem oamFE80 (addr : Addr) (acc : ByteAccess) : Statement (.oamFE80 addr acc) := fun h => accessWord_matches acc h

theorem unmappedFEA0 (addr : Addr) (acc : ByteAccess) : Statement (.unmappedFEA0 addr acc) := fun h => accessWord_matches acc h

theorem unmappedFEC0 (addr : Addr) (acc : ByteAccess) : Statement (.unmappedFEC0 addr acc) := fun h => accessWord_matches acc h

theorem unmappedFF00 (acc : ByteAccess) : Statement (.unmappedFF00 acc) := fun _ => accessWord_matches acc (by decide)

theorem serialFF01 (acc : ByteAccess) : Statement (.serialFF01 acc) := fun _ => accessWord_matches acc (by decide)

theorem serialFF02 (acc : ByteAccess) : Statement (.serialFF02 acc) := fun _ => accessWord_matches acc (by decide)

theorem unmappedFF03 (acc : ByteAccess) : Statement (.unmappedFF03 acc) := fun _ => accessWord_matches acc (by decide)

theorem unmappedFF04 (addr : Addr) (acc : ByteAccess) : Statement (.unmappedFF04 addr acc) := fun h => accessWord_matches acc h

theorem unmappedFF08 (addr : Addr) (acc : ByteAccess) : Statement (.unmappedFF08 addr acc) := fun h => accessWord_matches acc h

theorem unmappedFF10 (addr : Addr) (acc : ByteAccess) : Statement (.unmappedFF10 addr acc) := fun h => accessWord_matches acc h

theorem unmappedFF20 (addr : Addr) (acc : ByteAccess) : Statement (.unmappedFF20 addr acc) := fun h => accessWord_matches acc h

theorem displayFF40 (addr : Addr) (acc : ByteAccess) : Statement (.displayFF40 addr acc) := fun h => accessWord_matches acc h

theorem displayFF48 (addr : Addr) (acc : ByteAccess) : Statement (.displayFF48 addr acc) := fun h => accessWord_matches acc h

theorem unmappedFF4C (addr : Addr) (acc : ByteAccess) : Statement (.unmappedFF4C addr acc) := fun h => accessWord_matches acc h

theorem unmappedFF50 (addr : Addr) (acc : ByteAccess) : Statement (.unmappedFF50 addr acc) := fun h => accessWord_matches acc h

theorem unmappedFF60 (addr : Addr) (acc : ByteAccess) : Statement (.unmappedFF60 addr acc) := fun h => accessWord_matches acc h

theorem zramFF80 (addr : Addr) (acc : ByteAccess) : Statement (.zramFF80 addr acc) := fun h => accessWord_matches acc h

theorem regFF40 (acc : ByteAccess) : Statement (.regFF40 acc) := fun _ => accessWord_matches acc (by decide)

theorem regFF41 (acc : ByteAccess) : Statement (.regFF41 acc) := fun _ => accessWord_matches acc (by decide)

theorem regFF42 (acc : ByteAccess) : Statement (.regFF42 acc) := fun _ => accessWord_matches acc (by decide)

theorem regFF43 (acc : ByteAccess) : Statement (.regFF43 acc) := fun _ => accessWord_matches acc (by decide)

theorem regFF44 (acc : ByteAccess) : Statement (.regFF44 acc) := fun _ => accessWord_matches acc (by decide)

theorem regFF45 (acc : ByteAccess) : Statement (.regFF45 acc) := fun _ => accessWord_matches acc (by decide)

theorem regFF46 (acc : ByteAccess) : Statement (.regFF46 acc) := fun _ => accessWord_matches acc (by decide)

theorem regFF47 (acc : ByteAccess) : Statement (.regFF47 acc) := fun _ => accessWord_matches acc (by decide)

theorem regFF48 (acc : ByteAccess) : Statement (.regFF48 acc) := fun _ => accessWord_matches acc (by decide)

theorem regFF49 (acc : ByteAccess) : Statement (.regFF49 acc) := fun _ => accessWord_matches acc (by decide)

theorem regFF4A (acc : ByteAccess) : Statement (.regFF4A acc) := fun _ => accessWord_matches acc (by decide)

theorem regFF4B (acc : ByteAccess) : Statement (.regFF4B acc) := fun _ => accessWord_matches acc (by decide)

end Sys2Proof.Laws.RowEncoding
end

