-- ==== Sys2Proof/Tests/Slice0.lean ====
section
/-! SUPPORT. Tests. Expected values are those of 95_test_vectors.md (the vector is named) or worked from the rule named; the
last part gives, for each statement with hypotheses, a state and operands that meet them. -/

namespace Sys2Proof.Tests

open Sys2Proof.Machine

/-- The block reset over the image of V-B1 and V-W1. -/
def booted : State := resetOver (some [0x11, 0x22, 0x33]) .reference []

/-- The block after `WRB 0xFF40, 0x80` from reset: the display is on. -/
def lcdOn : State := { State.reset with lcdc := 0x80 }

/-- `lcdOn` on another line. -/
def lcdAt (ly : Byte) (clk : Nat) : State := { lcdOn with ly := ly, clk := clk }

/-- A frame of one white pixel, the only one in Q. -/
def full (s : State) : State := { s with queue := [[(0, 255), (1, 255), (2, 255)]] }

/-- An ADV that holds at a full channel. -/
def held : State := { full (lcdAt 144 0) with ifl := 0x01, hold := some ⟨false⟩ }

/-- The state after one operation. -/
def after (i : Instr) (s : State) : State :=
  match exec i s with
  | .next t => t
  | .fault _ => s
  | .refused _ => s

/-- The response of one operation. -/
def answer (i : Instr) (s : State) : Option Resp := (after i s).resp

/-- What a byte access run by itself returned. -/
def got (i : Instr) (s : State) : Option ByteRes := (after i s).byteRes

/-! ### Every constructor's word (R80 to R88, V-E1) -/

theorem test_decode_rdb : decode (.req35 0x000010000) = .ok (.rdb 0x0001) := by decide
theorem test_decode_wrb : decode (.req35 0x1FE10FF42) = .ok (.wrb 0xFE10 0x42) := by decide
theorem test_decode_rdw : decode (.req35 0x2C000FFFF) = .ok (.rdw 0xC000) := by decide
theorem test_decode_wrw : decode (.req35 0x3C000BEEF) = .ok (.wrw 0xC000 0xBEEF) := by decide
theorem test_decode_adv : decode (.req35 0x4ABCD0072) = .ok (.adv 114) := by decide
theorem test_decode_ifr : decode (.req35 0x5FFFFFFFF) = .ok .ifr := by decide
theorem test_decode_ifw : decode (.req35 0x60000FFA5) = .ok (.ifw 0xA5) := by decide
theorem test_decode_reservedOp7 : decode (.req35 0x7FFFFFFFF) = .ok .reservedOp7 := by decide
theorem test_decode_take : decode (.dreq1 0) = .ok .take := by decide
theorem test_decode_disc : decode (.dreq1 1) = .ok .disc := by decide
theorem test_decode_rom0000 : decode (.addr16 0x0007FFF) = .ok (.rom0000 0x7FFF .read) := by decide
theorem test_decode_vram8000 : decode (.addr16 0x15A9FFF) = .ok (.vram8000 0x9FFF (.write 0x5A)) := by decide
theorem test_decode_cramA000 : decode (.addr16 0x000BFFF) = .ok (.cramA000 0xBFFF .read) := by decide
theorem test_decode_wramC000 : decode (.addr16 0x15ADFFF) = .ok (.wramC000 0xDFFF (.write 0x5A)) := by decide
theorem test_decode_wramE000 : decode (.addr16 0x000EFFF) = .ok (.wramE000 0xEFFF .read) := by decide
theorem test_decode_wramF000 : decode (.addr16 0x15AF7FF) = .ok (.wramF000 0xF7FF (.write 0x5A)) := by decide
theorem test_decode_wramF800 : decode (.addr16 0x000FBFF) = .ok (.wramF800 0xFBFF .read) := by decide
theorem test_decode_wramFC00 : decode (.addr16 0x15AFDFF) = .ok (.wramFC00 0xFDFF (.write 0x5A)) := by decide
theorem test_decode_oamFE00 : decode (.addr16 0x000FE7F) = .ok (.oamFE00 0xFE7F .read) := by decide
theorem test_decode_oamFE80 : decode (.addr16 0x15AFE9F) = .ok (.oamFE80 0xFE9F (.write 0x5A)) := by decide
theorem test_decode_unmappedFEA0 : decode (.addr16 0x000FEBF) = .ok (.unmappedFEA0 0xFEBF .read) := by decide
theorem test_decode_unmappedFEC0 : decode (.addr16 0x15AFEFF) = .ok (.unmappedFEC0 0xFEFF (.write 0x5A)) := by decide
theorem test_decode_unmappedFF00 : decode (.addr16 0x000FF00) = .ok (.unmappedFF00 .read) := by decide
theorem test_decode_serialFF01 : decode (.addr16 0x15AFF01) = .ok (.serialFF01 (.write 0x5A)) := by decide
theorem test_decode_serialFF02 : decode (.addr16 0x000FF02) = .ok (.serialFF02 .read) := by decide
theorem test_decode_unmappedFF03 : decode (.addr16 0x15AFF03) = .ok (.unmappedFF03 (.write 0x5A)) := by decide
theorem test_decode_unmappedFF04 : decode (.addr16 0x000FF07) = .ok (.unmappedFF04 0xFF07 .read) := by decide
theorem test_decode_unmappedFF08 : decode (.addr16 0x15AFF0F) = .ok (.unmappedFF08 0xFF0F (.write 0x5A)) := by decide
theorem test_decode_unmappedFF10 : decode (.addr16 0x000FF1F) = .ok (.unmappedFF10 0xFF1F .read) := by decide
theorem test_decode_unmappedFF20 : decode (.addr16 0x15AFF3F) = .ok (.unmappedFF20 0xFF3F (.write 0x5A)) := by decide
theorem test_decode_displayFF40 : decode (.addr16 0x000FF47) = .ok (.displayFF40 0xFF47 .read) := by decide
theorem test_decode_displayFF48 : decode (.addr16 0x15AFF4B) = .ok (.displayFF48 0xFF4B (.write 0x5A)) := by decide
theorem test_decode_unmappedFF4C : decode (.addr16 0x000FF4F) = .ok (.unmappedFF4C 0xFF4F .read) := by decide
theorem test_decode_unmappedFF50 : decode (.addr16 0x15AFF5F) = .ok (.unmappedFF50 0xFF5F (.write 0x5A)) := by decide
theorem test_decode_unmappedFF60 : decode (.addr16 0x000FF7F) = .ok (.unmappedFF60 0xFF7F .read) := by decide
theorem test_decode_zramFF80 : decode (.addr16 0x15AFFFF) = .ok (.zramFF80 0xFFFF (.write 0x5A)) := by decide
theorem test_decode_regFF40 : decode (.reg16 0x000FF40) = .ok (.regFF40 .read) := by decide
theorem test_decode_regFF41 : decode (.reg16 0x1E4FF41) = .ok (.regFF41 (.write 0xE4)) := by decide
theorem test_decode_regFF42 : decode (.reg16 0x000FF42) = .ok (.regFF42 .read) := by decide
theorem test_decode_regFF43 : decode (.reg16 0x1E4FF43) = .ok (.regFF43 (.write 0xE4)) := by decide
theorem test_decode_regFF44 : decode (.reg16 0x000FF44) = .ok (.regFF44 .read) := by decide
theorem test_decode_regFF45 : decode (.reg16 0x1E4FF45) = .ok (.regFF45 (.write 0xE4)) := by decide
theorem test_decode_regFF46 : decode (.reg16 0x000FF46) = .ok (.regFF46 .read) := by decide
theorem test_decode_regFF47 : decode (.reg16 0x1E4FF47) = .ok (.regFF47 (.write 0xE4)) := by decide
theorem test_decode_regFF48 : decode (.reg16 0x000FF48) = .ok (.regFF48 .read) := by decide
theorem test_decode_regFF49 : decode (.reg16 0x1E4FF49) = .ok (.regFF49 (.write 0xE4)) := by decide
theorem test_decode_regFF4A : decode (.reg16 0x000FF4A) = .ok (.regFF4A .read) := by decide
theorem test_decode_regFF4B : decode (.reg16 0x1E4FF4B) = .ok (.regFF4B (.write 0xE4)) := by decide

/-- An address that is no register is rejected by name (R154). -/
theorem test_decode_no_register :
    decode (.reg16 0x000FF3F) = .error .noDisplayRegister ∧ decode (.reg16 0x000FF4C) = .error .noDisplayRegister := by decide

/-- The table's own words: a processor-port row, a display-port row, an address row and a register row. -/
theorem test_decodeTableWord_rdb : decodeTableWord 40 0x000010000 = some (.rdb 0x0001) := by decide
theorem test_decodeTableWord_disc : decodeTableWord 8 0x1 = some .disc := by decide
theorem test_decodeTableWord_rom : decodeTableWord 16 0x0000 = some (.rom0000 0x0000 .read) := by decide
theorem test_decodeTableWord_reg : decodeTableWord 16 0xFF47 = some (.regFF47 .read) := by decide

/-! ### Ill-formed terms are refused -/

theorem test_wf_adv : (Instr.adv 65536).wellFormed = false ∧ (Instr.adv 65535).wellFormed = true := by decide
theorem test_wf_rom0000 : (Instr.rom0000 0x8000 .read).wellFormed = false := by decide
theorem test_wf_vram8000 : (Instr.vram8000 0xA000 .read).wellFormed = false := by decide
theorem test_wf_cramA000 : (Instr.cramA000 0xC000 .read).wellFormed = false := by decide
theorem test_wf_wramC000 : (Instr.wramC000 0xE000 .read).wellFormed = false := by decide
theorem test_wf_wramE000 : (Instr.wramE000 0xF000 .read).wellFormed = false := by decide
theorem test_wf_wramF000 : (Instr.wramF000 0xF800 .read).wellFormed = false := by decide
theorem test_wf_wramF800 : (Instr.wramF800 0xFC00 .read).wellFormed = false := by decide
theorem test_wf_wramFC00 : (Instr.wramFC00 0xFE00 .read).wellFormed = false := by decide
theorem test_wf_oamFE00 : (Instr.oamFE00 0xFE80 .read).wellFormed = false := by decide
theorem test_wf_oamFE80 : (Instr.oamFE80 0xFEA0 .read).wellFormed = false := by decide
theorem test_wf_unmappedFEA0 : (Instr.unmappedFEA0 0xFEC0 .read).wellFormed = false := by decide
theorem test_wf_unmappedFEC0 : (Instr.unmappedFEC0 0xFF00 .read).wellFormed = false := by decide
theorem test_wf_unmappedFF04 : (Instr.unmappedFF04 0xFF08 .read).wellFormed = false := by decide
theorem test_wf_unmappedFF08 : (Instr.unmappedFF08 0xFF10 .read).wellFormed = false := by decide
theorem test_wf_unmappedFF10 : (Instr.unmappedFF10 0xFF20 .read).wellFormed = false := by decide
theorem test_wf_unmappedFF20 : (Instr.unmappedFF20 0xFF40 .read).wellFormed = false := by decide
theorem test_wf_displayFF40 : (Instr.displayFF40 0xFF48 .read).wellFormed = false := by decide
theorem test_wf_displayFF48 : (Instr.displayFF48 0xFF4C .read).wellFormed = false := by decide
theorem test_wf_unmappedFF4C : (Instr.unmappedFF4C 0xFF50 .read).wellFormed = false := by decide
theorem test_wf_unmappedFF50 : (Instr.unmappedFF50 0xFF60 .read).wellFormed = false := by decide
theorem test_wf_unmappedFF60 : (Instr.unmappedFF60 0xFF80 .read).wellFormed = false := by decide
theorem test_wf_zramFF80 : (Instr.zramFF80 0x0000 .read).wellFormed = false := by decide

/-! ### Byte and word accesses -/

/-- V-B1: the last image byte, and the first address at ROM_LEN. -/
theorem test_rdb_rom : answer (.rdb 0x0002) booted = some (.done .ok 0x33) ∧
    answer (.rdb 0x0003) booted = some (.done .unmapped 0xFF) := by decide

/-- V-B1: a discarded write and a write to ROM. -/
theorem test_wrb_rom : (after (.wrb 0x0003 0x55) booted).rom = booted.rom ∧
    (after (.wrb 0x0000 0x99) booted).rom.read 0 = 0x99 := by decide

/-- V-B1: C123 and E123 are one cell. -/
theorem test_wrb_alias : answer (.rdb 0xE123) (after (.wrb 0xC123 0x5A) booted) = some (.done .ok 0x5A) := by decide

/-- V-W1: low byte at the lower address. -/
theorem test_wrw_order : (after (.wrw 0xC000 0xBEEF) booted).wram.read 0 = 0xEF ∧
    (after (.wrw 0xC000 0xBEEF) booted).wram.read 1 = 0xBE := by decide

/-- V-W1: FFFF, then 0000. -/
theorem test_wrw_wrap : answer (.rdw 0xFFFF) (after (.wrw 0xFFFF 0xC3D4) booted) = some (.done .ok 0xC3D4) := by decide

/-- V-W1: ROM[2], then a byte beyond the image; and a high byte in CRAM. -/
theorem test_rdw_merge : answer (.rdw 0x0002) booted = some (.done .unmapped 0xFF33) ∧
    answer (.rdw 0x9FFF) booted = some (.error .unimpl) := by decide

/-- V-R1. -/
theorem test_ifw_ifr : answer .ifr (after (.ifw 0xA5) State.reset) = some (.done .ok 0xA5) := by decide

/-- V-E1. -/
theorem test_reservedOp7 : answer .reservedOp7 booted = some (.error .badop) := by decide

/-- V-E2: response words. -/
theorem test_resp_words : (Resp.done .ok 0x42).word = some 0x00042 ∧ (Resp.done .unmapped 0xFF00).word = some 0x1FF00 ∧
    (Resp.done .frameDropped 0).word = some 0x40000 ∧ (Resp.error .unimpl).code = 2 ∧ (Resp.error .badreg).code = 3 ∧
    (Resp.error .badop).code = 5 := by decide

/-! ### The inner rows -/

theorem test_rom0000 : got (.rom0000 0x0001 .read) booted = some (.read (.value .ok 0x22)) ∧
    got (.rom0000 0x7FFF (.write 1)) booted = some (.wrote (.done .unmapped)) := by decide
theorem test_vram8000 : (after (.vram8000 0x9FFF (.write 0x7E)) booted).vram.read 0x1FFF = 0x7E := by decide
theorem test_cramA000 : got (.cramA000 0xBFFF (.write 1)) booted = some (.wrote (.error .unimpl)) := by decide
theorem test_wramC000 : (after (.wramC000 0xDE00 (.write 0x66)) booted).wram.read 0x1E00 = 0x66 := by decide
theorem test_wramE000 : (after (.wramE000 0xE123 (.write 0x5A)) booted).wram.read 0x0123 = 0x5A := by decide
theorem test_wramF000 : (after (.wramF000 0xF000 (.write 0x5A)) booted).wram.read 0x1000 = 0x5A := by decide
theorem test_wramF800 : (after (.wramF800 0xFBFF (.write 0x5A)) booted).wram.read 0x1BFF = 0x5A := by decide
theorem test_wramFC00 : (after (.wramFC00 0xFDFF (.write 0x77)) booted).wram.read 0x1DFF = 0x77 := by decide
theorem test_oamFE00 : (after (.oamFE00 0xFE10 (.write 0x42)) booted).oam.read 0x10 = 0x42 := by decide
theorem test_oamFE80 : (after (.oamFE80 0xFE9F (.write 0x9F)) booted).oam.read 159 = 0x9F := by decide
theorem test_zramFF80 : (after (.zramFF80 0xFFFF (.write 0x1F)) booted).zram.read 0x7F = 0x1F := by decide
theorem test_serialFF01 : got (.serialFF01 .read) (after (.serialFF01 (.write 0x41)) booted) =
    some (.read (.value .ok 0x41)) := by decide
theorem test_serialFF02 : got (.serialFF02 .read) (after (.serialFF02 (.write 0x81)) booted) =
    some (.read (.value .ok 0x81)) := by decide
theorem test_displayFF40 : got (.displayFF40 0xFF45 .read) booted = some (.read (.error .badreg)) ∧
    (after (.displayFF40 0xFF47 (.write 0xE4)) booted).bgmap = ⟨255, 192, 96, 0⟩ := by decide
theorem test_displayFF48 : (after (.displayFF48 0xFF48 (.write 0x1B)) booted).obmap0 = ⟨0, 96, 192, 255⟩ ∧
    (after (.displayFF48 0xFF4B (.write 7)) booted).wx = 7 := by decide
theorem test_unmappedFEA0 : got (.unmappedFEA0 0xFEBF .read) booted = some (.read (.value .unmapped 0xFF)) := by decide
theorem test_unmappedFEC0 : got (.unmappedFEC0 0xFEFF .read) booted = some (.read (.value .unmapped 0xFF)) := by decide
theorem test_unmappedFF00 : got (.unmappedFF00 .read) booted = some (.read (.value .unmapped 0xFF)) := by decide
theorem test_unmappedFF03 : got (.unmappedFF03 .read) booted = some (.read (.value .unmapped 0xFF)) := by decide
theorem test_unmappedFF04 : got (.unmappedFF04 0xFF04 .read) booted = some (.read (.value .unmapped 0xFF)) := by decide
theorem test_unmappedFF08 : got (.unmappedFF08 0xFF0F .read) booted = some (.read (.value .unmapped 0xFF)) := by decide
theorem test_unmappedFF10 : got (.unmappedFF10 0xFF10 .read) booted = some (.read (.value .unmapped 0xFF)) := by decide
theorem test_unmappedFF20 : got (.unmappedFF20 0xFF3F .read) booted = some (.read (.value .unmapped 0xFF)) := by decide
theorem test_unmappedFF4C : got (.unmappedFF4C 0xFF4C .read) booted = some (.read (.value .unmapped 0xFF)) := by decide
theorem test_unmappedFF50 : got (.unmappedFF50 0xFF50 .read) booted = some (.read (.value .unmapped 0xFF)) := by decide
theorem test_unmappedFF60 : got (.unmappedFF60 0xFF7F .read) booted = some (.read (.value .unmapped 0xFF)) := by decide

/-! ### Display registers (V-R1, S5, S6) -/

theorem test_regFF40 : (after (.regFF40 (.write 0x6F)) booted).lcdc = 0x6F := by decide
theorem test_regFF41 : (after (.regFF41 (.write 0xFF)) booted).stat = 0xFF := by decide
theorem test_regFF42 : (after (.regFF42 (.write 0x08)) booted).scy = 0x08 := by decide
theorem test_regFF43 : (after (.regFF43 (.write 0x04)) booted).scx = 0x04 := by decide
theorem test_regFF4A : (after (.regFF4A (.write 0x90)) booted).wy = 0x90 := by decide
theorem test_regFF4B : (after (.regFF4B (.write 0x07)) booted).wx = 0x07 := by decide
theorem test_regFF44 : got (.regFF44 .read) (after (.regFF44 (.write 0x00)) (lcdAt 5 0)) =
    some (.read (.value .ok 5)) := by decide
theorem test_regFF45 : got (.regFF45 (.write 1)) booted = some (.wrote (.error .badreg)) := by decide
theorem test_regFF46 : got (.regFF46 (.write 0xC1)) booted = some (.wrote (.error .badreg)) := by decide
theorem test_regFF47 : (after (.regFF47 (.write 0xE4)) booted).bgmap = ⟨255, 192, 96, 0⟩ := by decide
theorem test_regFF48 : (after (.regFF48 (.write 0xD2)) booted).obmap0 = ⟨96, 255, 192, 0⟩ := by decide
theorem test_regFF49 : (after (.regFF49 (.write 0x1B)) booted).obmap1 = ⟨0, 96, 192, 255⟩ := by decide

/-! ### Cycle advance, rendering and hand-off -/

/-- S8: with LCDC bit 7 clear nothing happens. -/
theorem test_adv_disabled : after (.adv 60000) { lcdAt 7 50 with lcdc := 0x7F } =
    { lcdAt 7 50 with lcdc := 0x7F, resp := some (.done .ok 0) } := by decide

/-- P4 step 8: without a receiver the hand-off drops the frame. -/
theorem test_adv_drop : answer (.adv 114) { lcdAt 143 0 with connected := false } = some (.done .frameDropped 0) ∧
    (after (.adv 114) { lcdAt 143 0 with connected := false }).events = [.drop] := by decide

/-- P4 steps 5 and 7: TAKE gives the frame, DISC discards it. -/
theorem test_take : (after .take held).dresp = some (.frame [(0, 255), (1, 255), (2, 255)]) ∧ (after .take held).queue = [] := by
  decide
theorem test_disc : (after .disc held).dresp = some .done ∧ (after .disc held).queue = [] ∧
    (after .disc (after .disc held)).dresp = some .closed := by decide

/-- S3, S4. -/
theorem test_tileDataAddr : tileDataAddr true 255 = 0x8FF0 ∧ tileDataAddr false 0 = 0x9000 ∧ tileDataAddr false 128 = 0x8800 := by
  decide

/-- P2: tile 1, row 1 (p1 = CC, p2 = F0) under map cell (0, 0). -/
def tiled : State :=
  { lcdOn with lcdc := 0x91, bgp := 0xE4, bgmap := ⟨255, 192, 96, 0⟩, vram := [(0x12, 0xCC), (0x13, 0xF0), (0x1800, 0x01)] }

theorem test_pixel : (List.range 9).map (fun x => pixel tiled x 1) = [0, 0, 96, 96, 192, 192, 255, 255, 255] := by decide

/-! ### Witnesses: each statement's hypotheses are met together -/

/-- `s` with one input presented. -/
def presented (x : Input) (s : State) : State := { s with inputs := [x] }

theorem test_witness_DecodingAnEncodedOperationGivesItBack :
    (Instr.adv 0).wellFormed = true ∧ (Instr.adv 65535).wellFormed = true ∧ (Instr.oamFE80 0xFE9F (.write 0x5A)).wellFormed = true ∧
    (Instr.zramFF80 0xFFFF .read).wellFormed = true := by decide

theorem test_witness_DecodedOperationsAreWellFormed :
    decode (.req35 0x40000FFFF) = .ok (.adv 65535) ∧ decode (.addr16 0x000FEBF) = .ok (.unmappedFEA0 0xFEBF .read) := by decide

theorem test_witness_StepRunsTheDecodedRequest :
    (presented (.request (.req35 0x500000000)) lcdOn).phase = .run ∧
    (presented (.request (.req35 0x500000000)) lcdOn).hold = none ∧ decode (.req35 0x500000000) = .ok .ifr ∧
    step (presented (.request (.req35 0x500000000)) lcdOn) = .next (after .ifr lcdOn) := by
  and_intros <;> rfl

/-- The display port is served while an ADV holds. -/
theorem test_witness_StepRunsTheDecodedRequest_held :
    (presented (.request (.dreq1 0)) held).phase = .run ∧ onDisplayPort (.dreq1 0) = true ∧ decode (.dreq1 0) = .ok .take ∧
    step (presented (.request (.dreq1 0)) held) = .next (after .take held) := by
  and_intros <;> rfl

/-- One state for each clause. -/
theorem test_witness_RequestsAreAcceptedOnlyWhileRunningAndNotHeld :
    (resetOver none .reference [.request (.req35 0)]).phase ≠ .run ∧
    (held.phase = .run ∧ onDisplayPort (.req35 0) = false ∧ held.hold ≠ none ∧ held.connected = true ∧ held.queue ≠ [] ∧
      step (presented (.request (.req35 0)) held) = .fault .portHeld) ∧
    (after .take held).queue = [] ∧ (after .take held).hold ≠ none ∧ (after .disc held).connected = false := by
  and_intros <;> first | rfl | decide

theorem test_witness_NothingSurvivesReset :
    step (presented (.reset (some [0x00, 0x01]) (.other 3)) held) = .next (resetOver (some [0x00, 0x01]) (.other 3) []) := rfl

theorem test_witness_ResetLeavesTheCollectedResetValues : booted.rom.read 0 = 0x11 ∧ booted.rom.read 2 = 0x33 ∧ booted.romLen = 3 ∧
    booted.serial = .reference 0 0 ∧ (resetOver (some []) (.other 3) []).serial = .other 3 [] := by decide

theorem test_witness_EveryStepKeepsTheInvariants :
    held.Inv ∧ step (presented (.request (.req35 0x1FF470000)) lcdOn) = .next (after (.wrb 0xFF47 0) lcdOn) ∧
    (presented (.request (.req35 0x1FF470000)) lcdOn).Inv := by
  and_intros <;> first | rfl | decide

theorem test_witness_EveryFrameStaysGrayscale :
    lcdOn.Inv ∧ FramesGrayscale lcdOn ∧ step (presented .proceed lcdOn) = .next lcdOn := by
  have hfill : isIntensity Config.fbFill := by decide
  exact ⟨by decide, ⟨fun x _ y _ c _ => ⟨rfl, hfill⟩, fun f hf => (by cases hf), fun e he => (by cases he)⟩, rfl⟩

/-- RDB at both ends of every range, below the display registers. -/
theorem test_witness_ByteReadsFollowTheirRegion_low :
    answer (.rdb 0x0000) booted = some (.done .ok 0x11) ∧ answer (.rdb 0x7FFF) booted = some (.done .unmapped 0xFF) ∧
    answer (.rdb 0x8000) booted = some (.done .ok 0) ∧ answer (.rdb 0x9FFF) booted = some (.done .ok 0) ∧
    answer (.rdb 0xA000) booted = some (.error .unimpl) ∧ answer (.rdb 0xBFFF) booted = some (.error .unimpl) ∧
    answer (.rdb 0xC000) booted = some (.done .ok 0) ∧ answer (.rdb 0xFDFF) booted = some (.done .ok 0) ∧
    answer (.rdb 0xFE00) booted = some (.done .ok 0) ∧ answer (.rdb 0xFE9F) booted = some (.done .ok 0) ∧
    answer (.rdb 0xFEA0) booted = some (.done .unmapped 0xFF) ∧ answer (.rdb 0xFF00) booted = some (.done .unmapped 0xFF) := by
  decide

/-- RDB at both ends of every range, from FF01 up. -/
theorem test_witness_ByteReadsFollowTheirRegion_high :
    answer (.rdb 0xFF01) booted = some (.done .ok 0) ∧ answer (.rdb 0xFF02) booted = some (.done .ok 0) ∧
    answer (.rdb 0xFF03) booted = some (.done .unmapped 0xFF) ∧ answer (.rdb 0xFF3F) booted = some (.done .unmapped 0xFF) ∧
    answer (.rdb 0xFF40) lcdOn = some (.done .ok 0x80) ∧ answer (.rdb 0xFF44) (lcdAt 5 0) = some (.done .ok 5) ∧
    answer (.rdb 0xFF45) booted = some (.error .badreg) ∧ answer (.rdb 0xFF46) booted = some (.error .badreg) ∧
    answer (.rdb 0xFF47) tiled = some (.done .ok 0xE4) ∧ answer (.rdb 0xFF4B) booted = some (.done .ok 0) ∧
    answer (.rdb 0xFF4C) booted = some (.done .unmapped 0xFF) ∧ answer (.rdb 0xFF7F) booted = some (.done .unmapped 0xFF) ∧
    answer (.rdb 0xFF80) booted = some (.done .ok 0) ∧ answer (.rdb 0xFFFF) booted = some (.done .ok 0) := by decide

/-- WRB at both ends of the ranges with storage. -/
theorem test_witness_ByteWritesFollowTheirRegion :
    (after (.wrb 0x0002 7) booted).rom.read 2 = 7 ∧ answer (.wrb 0x0003 7) booted = some (.done .unmapped 0) ∧
    (after (.wrb 0x8000 7) booted).vram = [(0, 7)] ∧ (after (.wrb 0x9FFF 7) booted).vram = [(0x1FFF, 7)] ∧
    answer (.wrb 0xA000 7) booted = some (.error .unimpl) ∧ (after (.wrb 0xC000 7) booted).wram = [(0, 7)] ∧
    (after (.wrb 0xFDFF 7) booted).wram = [(0x1DFF, 7)] ∧ (after (.wrb 0xFE00 7) booted).oam = [(0, 7)] ∧
    (after (.wrb 0xFE9F 7) booted).oam = [(159, 7)] ∧ answer (.wrb 0xFEA0 7) booted = some (.done .unmapped 0) ∧
    (after (.wrb 0xFF01 7) booted).serial = .reference 7 0 ∧ (after (.wrb 0xFF02 7) booted).serial = .reference 0 7 ∧
    answer (.wrb 0xFF46 7) booted = some (.error .badreg) ∧ (after (.wrb 0xFF4B 7) booted).wx = 7 ∧
    (after (.wrb 0xFF80 7) booted).zram = [(0, 7)] ∧ (after (.wrb 0xFFFF 7) booted).zram = [(0x7F, 7)] := by decide

/-- A write to WRAM meets every premise of the frame but the one of its own cell; one to FF48 leaves BGP's. -/
theorem test_witness_ByteWriteChangesOnlyWhatItAddresses :
    exec (.wrb 0xC123 7) booted = .next (after (.wrb 0xC123 7) booted) ∧ busCell 0xC123 booted = some ⟨.wram, 0x123⟩ ∧
    busCell 0xC123 booted ≠ some ⟨.wram, 0x122⟩ ∧ busCell 0xFF48 booted ≠ some ⟨.oam, 0⟩ ∧
    exec (.wrb 0xFF48 7) booted = .next (after (.wrb 0xFF48 7) booted) := by
  and_intros <;> first | rfl | decide

theorem test_witness_WordWriteChangesOnlyWhatItAddresses :
    exec (.wrw 0xFDFF 0x0A0B) booted = .next (after (.wrw 0xFDFF 0x0A0B) booted) ∧
    busCell 0xFDFF booted = some ⟨.wram, 0x1DFF⟩ ∧ busCell (0xFDFF + 1) booted = some ⟨.oam, 0⟩ ∧
    region 0xFDFF ≠ .serial ∧ region (0xFDFF + 1) ≠ .serial := by
  and_intros <;> first | rfl | decide

theorem test_witness_ReadsChangeOnlyTheResponse :
    exec (.rdb 0xFF01) booted = .next (after (.rdb 0xFF01) booted) ∧ booted.serial = .reference 0 0 ∧
    region 0xFF00 ≠ .serial ∧ region 0xFF03 ≠ .serial ∧ exec (.rdw 0xFF02) booted = .next (after (.rdw 0xFF02) booted) ∧
    exec .ifr booted = .next (after .ifr booted) ∧ exec .reservedOp7 booted = .next (after .reservedOp7 booted) := by
  and_intros <;> first | rfl | decide

theorem test_witness_WrittenByteIsReadBack :
    StoresOk booted ∧ busCell 0x0002 booted = some ⟨.rom, 2⟩ ∧ busCell 0xFFFF booted = some ⟨.zram, 0x7F⟩ ∧
    busCell 0x0003 booted = none := by decide

/-- Inside a region, across two regions, and across the top of the space. -/
theorem test_witness_WrittenWordIsReadBack :
    StoresOk booted ∧ (busCell 0xC001 booted = some ⟨.wram, 1⟩ ∧ busCell (0xC001 + 1) booted = some ⟨.wram, 2⟩) ∧
    (busCell 0xFDFF booted = some ⟨.wram, 0x1DFF⟩ ∧ busCell (0xFDFF + 1) booted = some ⟨.oam, 0⟩) ∧
    busCell 0xFFFF booted = some ⟨.zram, 0x7F⟩ ∧ busCell (0xFFFF + 1) booted = some ⟨.rom, 0⟩ := by decide

theorem test_witness_CartridgeRamAlwaysErrs : read1 0xA000 booted = (.error .unimpl, booted) ∧
    write1 0xBFFF 1 booted = (.error .unimpl, booted) := by decide

/-- Video memory in mid-frame, with the display on. -/
theorem test_witness_VideoMemoryIsAlwaysAccessible : (read1 0x8000 (lcdAt 70 3)).1 = .value .ok 0 ∧
    (write1 0x9FFF 7 (lcdAt 70 3)).2.vram = [(0x1FFF, 7)] := by decide

theorem test_witness_CurrentLineIgnoresWrites : (lcdAt 0 0).Inv ∧ (lcdAt 153 113).Inv := by
  and_intros <;> first | rfl | decide

theorem test_witness_StoreRowsAccessTheirCell : (0x0002 : Addr).toNat < booted.romLen := by decide

theorem test_witness_RowsWithoutStorageStoreNothing : booted.romLen ≤ (0x0003 : Addr).toNat := by decide

/-- Both ends of the two display blocks. -/
theorem test_witness_SerialAndDisplayRowsForward :
    ((findRegRow 0xFF40).isSome ∧ inBlock 0xFF40 0xFFF8 0xFF40 = true) ∧
    ((findRegRow 0xFF47).isSome ∧ inBlock 0xFF47 0xFFF8 0xFF40 = true) ∧
    ((findRegRow 0xFF48).isSome ∧ inBlock 0xFF48 0xFFFC 0xFF48 = true) ∧
    (findRegRow 0xFF4B).isSome ∧ inBlock 0xFF4B 0xFFFC 0xFF48 = true := by decide

/-- Rows at the ends of the space, and one of each kind between. -/
theorem test_witness_AddressRowsAgreeWithTheBus :
    (findAddrRow 0x0000).isSome ∧ (findAddrRow 0xBFFF).isSome ∧ (findAddrRow 0xFDFF).isSome ∧ (findAddrRow 0xFEA0).isSome ∧
    (findAddrRow 0xFF02).isSome ∧ (findAddrRow 0xFF46).isSome ∧ (findAddrRow 0xFFFF).isSome := by decide

/-- S7 for the second clause, and the last cycle of a line for the third. -/
theorem test_witness_AdvanceShortOfALineMakesNoLineStep :
    State.reset.lcdc.getLsbD 7 = false ∧ (lcdAt 143 113).clk < 114 ∧ (lcdAt 143 0).lcdc.getLsbD 7 = true ∧
    (lcdAt 143 0).clk + 113 < 114 := by decide

/-- For each clause the lines it starts from, with CLK + n at both ends of its range. -/
theorem test_witness_OneLineOfCyclesIsOneLineStep :
    ((lcdAt 142 0).lcdc.getLsbD 7 = true ∧ (lcdAt 142 0).hold = none ∧ 114 ≤ (lcdAt 142 0).clk + 114 ∧
      (lcdAt 142 113).clk + 114 < 228) ∧
    ((lcdAt 142 0).ly.toNat + 1) % 154 = 143 ∧ ((lcdAt 153 0).ly.toNat + 1) % 154 = 0 ∧
    ((lcdAt 144 0).ly.toNat + 1) % 154 = 145 ∧ ((lcdAt 152 0).ly.toNat + 1) % 154 = 153 ∧
    ((lcdAt 143 0).ly.toNat + 1) % 154 = 144 ∧ (lcdAt 143 0).connected = true ∧ (lcdAt 143 0).queue = [] ∧
    (full (lcdAt 143 0)).queue ≠ [] ∧ (after .disc (lcdAt 143 0)).connected = false := by decide

/-- An ADV that does not hold, and one that does. -/
theorem test_witness_LinesAdvanceByCyclesOverOneHundredFourteen :
    (lcdAt 150 0).lcdc.getLsbD 7 = true ∧ (lcdAt 150 0).hold = none ∧ (lcdAt 150 0).ly.toNat < 154 ∧
    (after (.adv 227) (lcdAt 150 1)).hold = none ∧ (after (.adv 227) (lcdAt 150 1)).ly = 152 ∧
    (after (.adv 114) (full (lcdAt 143 0))).hold = some ⟨false⟩ ∧ (after (.adv 114) (full (lcdAt 143 0))).ly = 144 := by decide

theorem test_witness_SplittingTheCyclesChangesNothing :
    exec (.adv 100) (lcdAt 143 0) = .next (after (.adv 100) (lcdAt 143 0)) ∧ (after (.adv 100) (lcdAt 143 0)).hold = none ∧
    exec (.adv 14) (after (.adv 100) (lcdAt 143 0)) = .next (after (.adv 14) (after (.adv 100) (lcdAt 143 0))) ∧
    (after (.adv 14) (after (.adv 100) (lcdAt 143 0))).hold = none := by
  and_intros <;> rfl

/-- The second ADV holds at its first line step. -/
theorem test_witness_SplittingTheCyclesChangesNothing_held :
    exec (.adv 100) (full (lcdAt 143 0)) = .next (after (.adv 100) (full (lcdAt 143 0))) ∧
    (after (.adv 100) (full (lcdAt 143 0))).hold = none ∧
    exec (.adv 128) (after (.adv 100) (full (lcdAt 143 0))) = .next (after (.adv 128) (after (.adv 100) (full (lcdAt 143 0)))) ∧
    (after (.adv 128) (after (.adv 100) (full (lcdAt 143 0)))).hold = some ⟨false⟩ ∧
    (after (.adv 228) (full (lcdAt 143 0))).hold = some ⟨false⟩ ∧ (after (.adv 228) (full (lcdAt 143 0))).clk = 114 := by
  and_intros <;> rfl

/-- R168: the one hand-off of an ADV that enters line 144, and the whole frame of cycles that has one. -/
theorem test_witness_OneHandOffForEveryEntryOfLine144 :
    exec (.adv 114) (lcdAt 143 0) = .next (after (.adv 114) (lcdAt 143 0)) ∧ (after (.adv 114) (lcdAt 143 0)).hold = none ∧
    (after (.adv 114) (lcdAt 143 0)).events.length = 1 ∧ vblankEntries 143 1 = 1 ∧ vblankEntries 0 154 = 1 ∧
    (lcdAt 143 113).clk < 114 := by
  and_intros <;> first | rfl | decide

theorem test_witness_VerticalBlankFlagIsSetOnEntryOnly :
    (after (.adv 114) (lcdAt 143 0)).ifl = 0x01 ∧ vblankEntries 144 1 = 0 ∧ (after (.adv 114) (lcdAt 144 0)).ifl = 0 ∧
    (after (.adv 114) (lcdAt 144 0)).hold = none := by decide

theorem test_witness_AdvanceWithoutReceiverDropsAndGoesOn :
    (after .disc (lcdAt 143 0)).lcdc.getLsbD 7 = true ∧ (after .disc (lcdAt 143 0)).hold = none ∧
    (after .disc (lcdAt 143 0)).ly.toNat < 154 ∧ (after .disc (lcdAt 143 0)).connected = false := by decide

theorem test_witness_AdvanceChangesOnlyTheEngineAndTheChannel :
    exec (.adv 114) (lcdAt 143 0) = .next (after (.adv 114) (lcdAt 143 0)) := rfl

/-- Two states that differ in every part of the state that ADV does not read. -/
theorem test_witness_AdvanceReadsNoSpriteOrWindowState :
    let s := lcdAt 10 0
    let t : State := { lcdAt 10 0 with
      lcdc := 0xE7, stat := 0xFF, obp0 := 0xE4, obp1 := 0x1B, obmap0 := palDecode 0xE4, obmap1 := palDecode 0x1B, wy := 1, wx := 7,
      oam := [(0, 16), (1, 8)] }
    SameEngine s t ∧ SameChannel s t ∧ t.lcdc.getLsbD 7 = s.lcdc.getLsbD 7 ∧ t.lcdc.getLsbD 4 = s.lcdc.getLsbD 4 ∧
    t.lcdc.getLsbD 3 = s.lcdc.getLsbD 3 ∧ t.scy = s.scy ∧ t.scx = s.scx ∧ t.vram = s.vram ∧ t.bgmap = s.bgmap := by decide

/-- From line 143, one line; from line 144, a whole frame. -/
theorem test_witness_AdvanceHoldsAtAFullChannel :
    (full (lcdAt 143 0)).lcdc.getLsbD 7 = true ∧ (full (lcdAt 143 0)).hold = none ∧ (full (lcdAt 143 0)).connected = true ∧
    (full (lcdAt 143 0)).queue ≠ [] ∧ 114 * ((297 - (full (lcdAt 143 0)).ly.toNat) % 154 + 1) ≤ (full (lcdAt 143 0)).clk + 114 ∧
    114 * ((297 - (full (lcdAt 144 0)).ly.toNat) % 154 + 1) ≤ (full (lcdAt 144 0)).clk + 17556 := by decide

theorem test_witness_HeldAdvanceWaitsForTakeOrDisc :
    held.hold ≠ none ∧ held.connected = true ∧ held.queue ≠ [] ∧ held.inputs = [] ∧ held.queue.length = 1 ∧
    (presented .proceed held).inputs = .proceed :: [] := by decide

/-- The second ADV delivers at its first entry of line 144 and holds at its second. -/
theorem test_witness_SplittingTheCyclesChangesNothing_frame :
    (after (.adv 17570) (after (.adv 100) (lcdAt 143 0))).hold = some ⟨false⟩ := by decide +kernel

/-- An ADV that holds with whole lines left, and its hold lifted by TAKE and by DISC. -/
def heldLong : State := { held with clk := 115 }

theorem test_witness_LiftedAdvanceGoesOnWithTheCyclesLeft :
    held.hold = some ⟨false⟩ ∧ held.lcdc.getLsbD 7 = true ∧ held.clk < 114 ∧ held.inputs = [] ∧
    ((after .take held).connected = true ∧ (after .take held).queue = [] ∧ (after .take held).hold = some ⟨false⟩) ∧
    (after .disc held).connected = false ∧ (after .disc held).hold = some ⟨false⟩ := by decide

/-- With a line left: nothing presented, an entry `proceed`, and a request that waits; the line is done, and the request stays. -/
theorem test_witness_LiftedAdvanceGoesOnWithTheCyclesLeft_lines :
    heldLong.lcdc.getLsbD 7 = true ∧ 114 ≤ (after .take heldLong).clk ∧ (after .take heldLong).queue = [] ∧
    (after .take heldLong).hold = some ⟨false⟩ ∧ (presented .proceed (after .disc heldLong)).inputs = .proceed :: [] ∧
    (after .take heldLong).phase = .run ∧ onDisplayPort (.req35 0) = false ∧
    (proceed (after .take heldLong)).ly = 145 ∧ (proceed (after .take heldLong)).clk = 1 ∧
    (proceed (after .take heldLong)).resp = some (.done .ok 0) ∧
    (proceed (after .disc heldLong)).resp = some (.done .frameDropped 0) ∧
    (proceed (presented (.request (.req35 0)) (after .take heldLong))).inputs = [.request (.req35 0)] := by decide

/-- An ADV that completes, with and without a receiver. -/
theorem test_witness_LiftedAdvanceCountsItsLines :
    (after .take heldLong).Inv ∧ (after .take heldLong).hold = some ⟨false⟩ ∧ (after .take heldLong).inputs = [] ∧
    (after .take heldLong).queue = [] ∧ (proceed (after .take heldLong)).hold = none ∧
    (presented .proceed (after .disc heldLong)).Inv ∧ (after .disc heldLong).connected = false ∧
    (proceed (after .disc heldLong)).hold = none ∧
    (presented (.request (.req35 0)) (after .take heldLong)).Inv ∧ onDisplayPort (.req35 0) = false ∧
    (proceed (presented (.request (.req35 0)) (after .take heldLong))).events.length = 1 := by
  and_intros <;> first | rfl | decide

/-- A lifted ADV with a whole frame of lines left holds again. -/
theorem test_witness_LiftedAdvanceCountsItsLines_held :
    ({ after .take held with clk := 17556 } : State).Inv ∧ (after .take held).queue = [] ∧
    (proceed { after .take held with clk := 17556 }).hold = some ⟨false⟩ ∧
    (proceed { after .take held with clk := 17556 }).events.length = 1 ∧ vblankEntries 144 153 = 0 := by decide +kernel

theorem test_witness_DisplayPortOperations :
    (after .disc held).connected = false ∧ (lcdOn.connected = true ∧ lcdOn.queue = []) ∧
    held.queue = [(0, 255), (1, 255), (2, 255)] :: [] ∧ held.connected = true := by decide

theorem test_witness_OnlyDiscChangesTheConnection : exec .disc held = .next (after .disc held) := rfl

theorem test_witness_QueuedFramesAreNeverChanged :
    exec (.adv 114) (lcdAt 143 0) = .next (after (.adv 114) (lcdAt 143 0)) ∧ Instr.adv 114 ≠ .take ∧ Instr.adv 114 ≠ .disc := by
  and_intros <;> first | rfl | decide

theorem test_witness_OnlyAdvanceMovesTheSequencer :
    (∀ n, Instr.wrb 0xFF44 7 ≠ .adv n) ∧ exec (.wrb 0xFF44 7) (lcdAt 5 0) = .next (after (.wrb 0xFF44 7) (lcdAt 5 0)) :=
  ⟨fun _ h => (by cases h), rfl⟩

theorem test_witness_OnlyIfwClearsTheInterruptFlag :
    (∀ v, Instr.adv 114 ≠ .ifw v) ∧ exec (.adv 114) (lcdAt 143 0) = .next (after (.adv 114) (lcdAt 143 0)) :=
  ⟨fun _ h => (by cases h), rfl⟩

theorem test_witness_NoOperationChangesThePlatform : exec (.ifw 1) lcdOn = .next (after (.ifw 1) lcdOn) := rfl

/-- The first and the last row and column, and the indexes next to row 1. -/
theorem test_witness_RenderLineWritesExactlyItsRow :
    fbIndex 0 1 0 = 480 ∧ fbIndex 159 1 2 = 959 ∧ 479 < 1 * 480 ∧ 1 * 480 + 480 ≤ 960 ∧ fbIndex 159 143 2 < Config.fbBytes ∧
    ({ lcdOn with oam := [(0, 16)], wx := 7 } : State).lcdc = lcdOn.lcdc := by decide

/-- The last column and row of the screen, in reach of the scroll wrap. -/
theorem test_witness_PixelIsTheOneExpression : pixel { tiled with scx := 0xFF, scy := 0xFF } 159 143 = 255 := by decide

theorem test_witness_PaletteDecodeMapsEachGroup :
    (palDecode 0xE4).get 0 = 255 ∧ (palDecode 0xE4).get 3 = 0 ∧ shade (BitVec.ofNat 2 ((0xE4 : Byte).toNat / 4 ^ 3)) = 0 := by decide

theorem test_witness_AFrameOfCyclesDeliversTheWholeBackground :
    (lcdAt 144 113).lcdc.getLsbD 7 = true ∧ (lcdAt 144 113).hold = none ∧ (lcdAt 144 113).clk < 114 ∧ (lcdAt 144 113).ly = 144 ∧
    (lcdAt 144 113).connected = true ∧ (lcdAt 144 113).queue = [] := by decide

theorem test_witness_FirstFrameLeavesRowZeroUnrendered :
    lcdOn.lcdc.getLsbD 7 = true ∧ lcdOn.hold = none ∧ lcdOn.clk = 0 ∧ lcdOn.ly = 0 ∧ lcdOn.fb = [] ∧ lcdOn.connected = true ∧
    lcdOn.queue = [] := by decide

end Sys2Proof.Tests
end

/-! ## Proofs: the state, its invariants and what each operation leaves alone (10_state.md) -/

namespace Sys2Proof

/-! ### Decoded operations are well-formed (R87, R90) -/

/-- A row of the block table makes a well-formed operation of an address in its block. -/
theorem addrRow_wellFormed {r : AddrRow} (hr : r ∈ addrRows) {a : Addr} (acc : ByteAccess)
    (hb : inBlock a r.mask r.pattern = true) : (r.op a acc).wellFormed = true := by
  have hall : ∀ q ∈ addrRows, inBlock a q.mask q.pattern = true → (q.op a acc).wellFormed = true := by
    simp only [addrRows, addrRowsLow, addrRowsHigh, List.cons_append, List.nil_append, List.forall_mem_cons,
      Instr.wellFormed, imp_self, implies_true, List.not_mem_nil, false_imp_iff, and_self]
  exact hall r hr hb

theorem regRow_wellFormed {r : RegRow} (hr : r ∈ regRows) (acc : ByteAccess) : (r.op acc).wellFormed = true := by
  revert r
  simp only [regRows, List.forall_mem_cons, Instr.wellFormed, List.not_mem_nil, false_imp_iff, implies_true, and_self]

theorem decodeReq_wellFormed (w : BitVec 35) : (decodeReq w).wellFormed = true := by
  unfold decodeReq
  split
  case h_5 => exact decide_eq_true (dataField w).isLt
  all_goals rfl

theorem decodeDreq_cases (w : BitVec 1) : decodeDreq w = .take ∨ decodeDreq w = .disc := by
  unfold decodeDreq
  split
  · exact .inl rfl
  · exact .inr rfl

/-- Whatever decodes is well-formed. -/
theorem decode_wellFormed {r : Request} {i : Instr} (h : decode r = .ok i) : i.wellFormed = true := by
  cases r with
  | req35 w =>
    cases h
    exact decodeReq_wellFormed w
  | dreq1 w =>
    cases h
    rcases decodeDreq_cases w with hw | hw <;> rw [hw] <;> rfl
  | addr16 w =>
    change decodeAddr w = _ at h
    unfold decodeAddr at h
    split at h
    next row hrow =>
      cases h
      exact addrRow_wellFormed (List.mem_of_find?_eq_some hrow) _
        (List.find?_some (p := fun q : AddrRow => inBlock (accessAddr w) q.mask q.pattern) hrow)
    next => cases h
  | reg16 w =>
    change decodeReg w = _ at h
    unfold decodeReg at h
    split at h
    next row hrow =>
      cases h
      exact regRow_wellFormed (List.mem_of_find?_eq_some hrow) _
    next => cases h

/-- An address of a block whose mask clears the low `k` bits is one of the `2 ^ k` from the block's first (R87). -/
theorem inBlock_range {a mask pattern : Addr} (k : Nat) (hmask : mask = BitVec.allOnes 16 <<< k)
    (h : inBlock a mask pattern = true) : pattern.toNat ≤ a.toNat ∧ a.toNat < pattern.toNat + 2 ^ k := by
  have hand : a &&& mask = (a >>> k) <<< k := by
    subst hmask
    ext i hi
    by_cases hk : i < k
    · simp [hk]
    · simp [hk, show k + (i - k) = i by omega, hi, -BitVec.reduceAllOnes]
  have hpat : pattern.toNat = a.toNat / 2 ^ k * 2 ^ k := by
    have hle : a.toNat / 2 ^ k * 2 ^ k < 2 ^ 16 := (Nat.div_mul_le_self _ _).trans_lt a.isLt
    rw [← eq_of_beq h, hand, BitVec.toNat_shiftLeft, BitVec.toNat_ushiftRight, Nat.shiftRight_eq_div_pow,
      Nat.shiftLeft_eq, Nat.mod_eq_of_lt hle]
  rw [hpat]
  exact ⟨Nat.div_mul_le_self _ _, Nat.lt_div_mul_add (Nat.two_pow_pos k)⟩

end Sys2Proof

namespace Sys2Proof.Machine

/-! ### Cells that a row reaches -/

/-- A byte access of a region reaches only cells that exist; in OAM, whose mask is wider than the store, by its index. -/
theorem regionCell_inside {r : Region} {a : Addr} {s : State} {c : Cell} (hoam : r = .oam → oamIndex a < Config.oamSize)
    (h : regionCell r a s = some c) : c.index < c.store.size s := by
  cases r with
  | rom =>
    simp only [regionCell] at h
    split at h <;> cases h
    assumption
  | vram =>
    cases h
    simp only [Store.size, vramIndex_eq, Config.vramSize]
    omega
  | wram =>
    cases h
    simp only [Store.size, wramIndex_eq, Config.wramSize]
    omega
  | oam =>
    cases h
    exact hoam rfl
  | zram =>
    cases h
    simp only [Store.size, zramIndex_eq, Config.zramSize]
    omega
  | cram | serial | display | unmapped => cases h

theorem oamIndex_lt_of_oamFE00 {a : Addr} (h : inBlock a 0xFF80 0xFE00 = true) : oamIndex a < Config.oamSize := by
  have hrange : 0xFE00 ≤ a.toNat ∧ a.toNat < 0xFE00 + 2 ^ 7 := inBlock_range 7 (by decide) h
  simp only [oamIndex_eq, Config.oamSize]
  omega

theorem oamIndex_lt_of_oamFE80 {a : Addr} (h : inBlock a 0xFFE0 0xFE80 = true) : oamIndex a < Config.oamSize := by
  have hrange : 0xFE80 ≤ a.toNat ∧ a.toNat < 0xFE80 + 2 ^ 5 := inBlock_range 5 (by decide) h
  simp only [oamIndex_eq, Config.oamSize]
  omega

/-! ### What an operation can do -/

/-- `t` is reached from `s` by byte accesses and responses of the operation `i`. A byte is written only to a cell that exists if
the operation is well-formed. -/
inductive AccessSteps (i : Instr) (s : State) : State → Prop where
  | start : AccessSteps i s s
  | respond {t : State} (x : Resp) (h : AccessSteps i s t) : AccessSteps i s (t.respond x)
  | byteDone {t : State} (x : ByteRes) (h : AccessSteps i s t) : AccessSteps i s (t.byteDone x)
  | read {t : State} (r : Region) (a : Addr) (h : AccessSteps i s t) : AccessSteps i s (regionRead r a t).2
  | write {t : State} (r : Region) (a : Addr) (v : Byte)
      (hcell : i.wellFormed = true → ∀ c, regionCell r a t = some c → c.index < c.store.size t) (h : AccessSteps i s t) :
      AccessSteps i s (regionWrite r a v t).2
  | regWrite {t : State} (d : DispReg) (v : Byte) (h : AccessSteps i s t) : AccessSteps i s (regWrite d v t).2

/-- READ1 of an operation. -/
theorem AccessSteps.read1 {i : Instr} {s t : State} (a : Addr) (h : AccessSteps i s t) : AccessSteps i s (read1 a t).2 :=
  h.read (region a) a

/-- WRITE1 of an operation: a bus address reaches only cells that exist. -/
theorem AccessSteps.write1 {i : Instr} {s t : State} (a : Addr) (v : Byte) (h : AccessSteps i s t) :
    AccessSteps i s (write1 a v t).2 :=
  h.write (region a) a v fun _ _ hc => busCell_inside hc

theorem execRdb_steps {i : Instr} {a : Addr} {s t : State} (h : execRdb a s = .next t) : AccessSteps i s t := by
  simp only [execRdb] at h
  split at h <;> cases h
  all_goals exact (AccessSteps.start.read1 a).respond _

theorem execWrb_steps {i : Instr} {a : Addr} {v : Byte} {s t : State} (h : execWrb a v s = .next t) : AccessSteps i s t := by
  simp only [execWrb] at h
  split at h <;> cases h
  all_goals exact (AccessSteps.start.write1 a v).respond _

theorem execRdw_steps {i : Instr} {a : Addr} {s t : State} (h : execRdw a s = .next t) : AccessSteps i s t := by
  have hlow : AccessSteps i s (read1 a s).2 := AccessSteps.start.read1 a
  simp only [execRdw] at h
  split at h
  · cases h
    exact hlow.respond _
  · split at h <;> cases h
    all_goals exact (hlow.read1 _).respond _

theorem execWrw_steps {i : Instr} {a : Addr} {w : Half} {s t : State} (h : execWrw a w s = .next t) : AccessSteps i s t := by
  have hlow : AccessSteps i s (write1 a (lowByte w) s).2 := AccessSteps.start.write1 a _
  simp only [execWrw] at h
  split at h
  · cases h
    exact hlow.respond _
  · split at h <;> cases h
    all_goals exact (hlow.write1 _ _).respond _

theorem regionAccess_steps {i : Instr} {r : Region} {a : Addr} {acc : ByteAccess} {s t : State}
    (h : regionAccess r a acc s = .next t) (hoam : i.wellFormed = true → r = .oam → oamIndex a < Config.oamSize) :
    AccessSteps i s t := by
  cases acc with
  | read =>
    cases h
    exact (AccessSteps.start.read r a).byteDone _
  | write v =>
    cases h
    exact (AccessSteps.start.write r a v fun hwf _ => regionCell_inside (hoam hwf)).byteDone _

theorem regAccess_steps {i : Instr} {d : DispReg} {acc : ByteAccess} {s t : State} (h : regAccess d acc s = .next t) :
    AccessSteps i s t := by
  cases acc with
  | read =>
    cases h
    exact AccessSteps.start.byteDone _
  | write v =>
    cases h
    exact (AccessSteps.start.regWrite d v).byteDone _

/-- Everything an operation can do: ADV, TAKE, DISC and IFW their own effect, every other one byte accesses and a response. -/
inductive OpEffect (s t : State) : Instr → Prop where
  | adv (n : Nat) (h : execAdv n s = .next t) : OpEffect s t (.adv n)
  | take (h : execTake s = .next t) : OpEffect s t .take
  | disc (h : execDisc s = .next t) : OpEffect s t .disc
  | ifw (v : Byte) (h : t = ({ s with ifl := v } : State).respond (.done .ok 0)) : OpEffect s t (.ifw v)
  | access (i : Instr) (h : AccessSteps i s t) : OpEffect s t i

theorem exec_effect {i : Instr} {s t : State} (h : exec i s = .next t) : OpEffect s t i := by
  cases i with
  | adv n => exact .adv n h
  | take => exact .take h
  | disc => exact .disc h
  | ifw v =>
    cases h
    exact .ifw v rfl
  | rdb a => exact .access _ (execRdb_steps h)
  | wrb a v => exact .access _ (execWrb_steps h)
  | rdw a => exact .access _ (execRdw_steps h)
  | wrw a w => exact .access _ (execWrw_steps h)
  | ifr | reservedOp7 =>
    cases h
    exact .access _ (AccessSteps.start.respond _)
  | oamFE00 a acc => exact .access _ (regionAccess_steps h fun hwf _ => oamIndex_lt_of_oamFE00 hwf)
  | oamFE80 a acc => exact .access _ (regionAccess_steps h fun hwf _ => oamIndex_lt_of_oamFE80 hwf)
  | rom0000 _ _ | vram8000 _ _ | cramA000 _ _ | wramC000 _ _ | wramE000 _ _ | wramF000 _ _ | wramF800 _ _ | wramFC00 _ _
  | unmappedFEA0 _ _ | unmappedFEC0 _ _ | unmappedFF00 _ | serialFF01 _ | serialFF02 _ | unmappedFF03 _ | unmappedFF04 _ _
  | unmappedFF08 _ _ | unmappedFF10 _ _ | unmappedFF20 _ _ | displayFF40 _ _ | displayFF48 _ _ | unmappedFF4C _ _
  | unmappedFF50 _ _ | unmappedFF60 _ _ | zramFF80 _ _ => exact .access _ (regionAccess_steps h fun _ hr => by cases hr)
  | regFF40 _ | regFF41 _ | regFF42 _ | regFF43 _ | regFF44 _ | regFF45 _ | regFF46 _ | regFF47 _ | regFF48 _ | regFF49 _
  | regFF4A _ | regFF4B _ => exact .access _ (regAccess_steps h)

end Sys2Proof.Machine

namespace Sys2Proof.Machine

/-! ### What byte accesses leave alone -/

/-- Byte accesses and responses leave the engine, the channel and the platform (R115, R155). -/
theorem AccessSteps.frame {i : Instr} {s t : State} (h : AccessSteps i s t) :
    SameEngine s t ∧ SameChannel s t ∧ SamePlatform s t := by
  induction h with
  | start => simp [SameEngine, SameChannel, SamePlatform]
  | respond _ _ ih | byteDone _ _ ih => exact ih
  | read r a _ ih =>
    rw [(regionRead_state r a _).1]
    exact ih
  | @write t r a v _ _ ih =>
    obtain ⟨hengine, hchannel, hplatform, -⟩ := regionWrite_frame r a v t
    simp_all [SameEngine, SameChannel, SamePlatform]
  | @regWrite t d v _ ih =>
    obtain ⟨hengine, hchannel, hplatform, -⟩ := regWrite_frame d v t
    simp_all [SameEngine, SameChannel, SamePlatform]

/-! ### TAKE and DISC -/

/-- TAKE takes a frame from the head of Q or leaves Q, and changes nothing else but its response (R195). -/
theorem execTake_cases {s t : State} (h : execTake s = .next t) :
    (∃ x, t = s.dispRespond x) ∨ ∃ f q x, s.queue = f :: q ∧ t = ({ s with queue := q } : State).dispRespond x := by
  unfold execTake at h
  split at h
  · split at h
    next => cases h; exact .inl ⟨_, rfl⟩
    next f q hq => cases h; exact .inr ⟨f, q, _, hq, rfl⟩
  · cases h
    exact .inl ⟨_, rfl⟩

/-- DISC disconnects and empties Q, or does nothing but respond (R196). -/
theorem execDisc_cases {s t : State} (h : execDisc s = .next t) :
    (∃ x, t = s.dispRespond x) ∨ ∃ x, t = ({ s with connected := false, queue := [] } : State).dispRespond x := by
  unfold execDisc at h
  split at h
  · cases h
    exact .inr ⟨_, rfl⟩
  · cases h
    exact .inl ⟨_, rfl⟩

/-- TAKE leaves the engine, the connection and the platform. -/
theorem execTake_frame {s t : State} (h : execTake s = .next t) :
    SameEngine s t ∧ t.connected = s.connected ∧ SamePlatform s t := by
  rcases execTake_cases h with ⟨x, rfl⟩ | ⟨f, q, x, -, rfl⟩ <;> simp [SameEngine, SamePlatform]

/-- DISC leaves the engine and the platform, and does not reconnect. -/
theorem execDisc_frame {s t : State} (h : execDisc s = .next t) :
    SameEngine s t ∧ (t.connected = s.connected ∨ t.connected = false) ∧ SamePlatform s t := by
  rcases execDisc_cases h with ⟨x, rfl⟩ | ⟨x, rfl⟩ <;> simp [SameEngine, SamePlatform]

/-! ### ADV -/

/-- What ADV leaves: it may change LY, CLK, IF, FB, Q, the history, its hold and its response, and nothing else (R41, R175,
R191). -/
def AdvFrame (s t : State) : Prop :=
  SameStores s t ∧ SameRegisters s t ∧ t.serial = s.serial ∧ t.connected = s.connected ∧ SamePlatform s t ∧
  t.dresp = s.dresp ∧ t.byteRes = s.byteRes

theorem AdvFrame.refl (s : State) : AdvFrame s s := by simp [AdvFrame, SameStores, SameRegisters, SamePlatform]

theorem AdvFrame.trans {s t u : State} (hst : AdvFrame s t) (htu : AdvFrame t u) : AdvFrame s u := by
  simp_all [AdvFrame, SameStores, SameRegisters, SamePlatform]

@[simp] theorem lineStep_readCell (s : State) (c : Cell) : (lineStep s).readCell c = s.readCell c := by
  obtain ⟨st, i⟩ := c
  cases st <;> simp [State.readCell, State.mem]

@[simp] theorem handOff_readCell (s : State) (c : Cell) : (handOff s).readCell c = s.readCell c := by
  obtain ⟨st, i⟩ := c
  cases st <;> simp [State.readCell, State.mem]

theorem lineStep_advFrame (s : State) : AdvFrame s (lineStep s) := by
  simp [AdvFrame, SameStores, SameRegisters, SamePlatform]

theorem handOff_advFrame (s : State) : AdvFrame s (handOff s) := by
  simp [AdvFrame, SameStores, SameRegisters, SamePlatform]

/-- What line steps, hand-offs, and how the loop ends all keep, holds after the loop of ADV. -/
theorem runLines_keeps {P : State → Prop} (hline : ∀ s, P s → P (lineStep s)) (hhand : ∀ s, P s → P (handOff s))
    (hdone : ∀ d s, P s → P (advDone d s)) (hhold : ∀ d s, P s → P (advHold d s)) (dropped : Bool) {s : State} (h : P s) :
    P (runLines dropped s) := by
  rcases runLines_cases (fun s hs _ => hline s hs) (fun s hs _ _ => hhand s hs) dropped s h with
    ⟨d, t, ht, -, heq⟩ | ⟨d, r, -, hr, -, -, -, heq⟩
  · exact heq ▸ hdone d t ht
  · exact heq ▸ hhold d _ hr

/-- The same for ADV, whose cycles are added to CLK first and which answers at once with the display off. -/
theorem execAdv_keeps {P : State → Prop} (hclk : ∀ s n, P s → P { s with clk := n }) (hresp : ∀ s x, P s → P (s.respond x))
    (hline : ∀ s, P s → P (lineStep s)) (hhand : ∀ s, P s → P (handOff s)) (hhold : ∀ d s, P s → P (advHold d s)) {n : Nat}
    {s t : State} (h : execAdv n s = .next t) (hs : P s) : P t := by
  unfold execAdv at h
  split at h
  · cases h
    exact runLines_keeps hline hhand (fun d s => hresp s _) hhold false (hclk s _ hs)
  · cases h
    exact hresp s _ hs

theorem execAdv_advFrame {n : Nat} {s t : State} (h : execAdv n s = .next t) : AdvFrame s t :=
  execAdv_keeps (P := AdvFrame s) (fun _ _ hu => hu) (fun _ _ hu => hu) (fun u hu => hu.trans (lineStep_advFrame u))
    (fun u hu => hu.trans (handOff_advFrame u)) (fun _ _ hu => hu) h (.refl s)

/-- ADV only appends to Q and to the history (R191). -/
theorem execAdv_appends {n : Nat} {s t : State} (h : execAdv n s = .next t) : s.events <+: t.events ∧ s.queue <+: t.queue := by
  refine execAdv_keeps (P := fun u => s.events <+: u.events ∧ s.queue <+: u.queue) (fun _ _ hu => hu) (fun _ _ hu => hu)
    (fun u hu => by simpa using hu) (fun u ⟨hevents, hqueue⟩ => ?_) (fun _ _ hu => hu) h ⟨List.prefix_rfl, List.prefix_rfl⟩
  rw [handOff_events, handOff_queue]
  refine ⟨hevents.trans (List.prefix_append _ _), ?_⟩
  split
  · exact hqueue.trans (List.prefix_append _ _)
  · exact hqueue

theorem setVblank_setVblank (v : Byte) : setVblank (setVblank v) = setVblank v := by
  simp [setVblank, BitVec.or_assoc]

/-- ADV leaves IF or sets its bit 0 (R164). -/
theorem execAdv_ifl {n : Nat} {s t : State} (h : execAdv n s = .next t) : t.ifl = s.ifl ∨ t.ifl = setVblank s.ifl := by
  refine execAdv_keeps (P := fun u => u.ifl = s.ifl ∨ u.ifl = setVblank s.ifl) (fun _ _ hu => hu) (fun _ _ hu => hu)
    (fun u hu => ?_) (fun u hu => by rwa [handOff_ifl]) (fun _ _ hu => hu) h (.inl rfl)
  rw [lineStep_ifl]
  split
  · rcases hu with hu | hu <;> simp [hu, setVblank_setVblank]
  · exact hu

/-! ### The frame statements -/

/-- Every operation but ADV and IFW leaves the engine. -/
theorem exec_sameEngine {i : Instr} {s t : State} (h : exec i s = .next t) :
    (∃ n, i = .adv n) ∨ (∃ v, i = .ifw v ∧ t = ({ s with ifl := v } : State).respond (.done .ok 0)) ∨ SameEngine s t := by
  cases exec_effect h with
  | adv n _ => exact .inl ⟨n, rfl⟩
  | ifw v ht => exact .inr (.inl ⟨v, rfl, ht⟩)
  | take htake => exact .inr (.inr (execTake_frame htake).1)
  | disc hdisc => exact .inr (.inr (execDisc_frame hdisc).1)
  | access _ hacc => exact .inr (.inr hacc.frame.1)

/-- Settles O41: every line step, every hand-off and both ends of the loop are within the frame of ADV. -/
theorem advanceChangesOnlyTheEngineAndTheChannel : Obligations.AdvanceChangesOnlyTheEngineAndTheChannel :=
  fun _ _ _ h => execAdv_advFrame h

/-- Settles O48: DISC apart, no effect of an operation touches CONNECTED. -/
theorem onlyDiscChangesTheConnection : Obligations.OnlyDiscChangesTheConnection := by
  intro i s t h
  cases exec_effect h with
  | adv n hadv =>
    obtain ⟨-, -, -, hconn, -⟩ := execAdv_advFrame hadv
    exact .inl hconn
  | take htake => exact .inl (execTake_frame htake).2.1
  | disc hdisc => exact (execDisc_frame hdisc).2.1.imp_right fun hconn => ⟨rfl, hconn⟩
  | ifw v ht =>
    subst ht
    exact .inl rfl
  | access _ hacc =>
    obtain ⟨-, ⟨-, hconn⟩, -⟩ := hacc.frame
    exact .inl hconn

/-- Settles O49: only hand-offs add to Q and to the history, at their ends, and only TAKE and DISC remove from Q. -/
theorem queuedFramesAreNeverChanged : Obligations.QueuedFramesAreNeverChanged := by
  intro i s t h
  cases exec_effect h with
  | adv n hadv =>
    obtain ⟨hevents, hqueue⟩ := execAdv_appends hadv
    exact ⟨hevents, fun _ _ => hqueue⟩
  | take htake =>
    obtain ⟨⟨-, -, -, -, hevents, -⟩, -⟩ := execTake_frame htake
    exact ⟨hevents ▸ List.prefix_rfl, fun hne => absurd rfl hne⟩
  | disc hdisc =>
    obtain ⟨⟨-, -, -, -, hevents, -⟩, -⟩ := execDisc_frame hdisc
    exact ⟨hevents ▸ List.prefix_rfl, fun _ hne => absurd rfl hne⟩
  | ifw v ht =>
    subst ht
    exact ⟨List.prefix_rfl, fun _ _ => List.prefix_rfl⟩
  | access _ hacc =>
    obtain ⟨⟨-, -, -, -, hevents, -⟩, ⟨hqueue, -⟩, -⟩ := hacc.frame
    exact ⟨hevents ▸ List.prefix_rfl, fun _ _ => hqueue ▸ List.prefix_rfl⟩

/-- Settles O50: of the operations but ADV, only IFW touches the engine, and there only IF. -/
theorem onlyAdvanceMovesTheSequencer : Obligations.OnlyAdvanceMovesTheSequencer := by
  intro i s t hadv h
  rcases exec_sameEngine h with ⟨n, hi⟩ | ⟨v, -, rfl⟩ | ⟨hly, hclk, -, hfb, hevents, hhold⟩
  · exact absurd hi (hadv n)
  · exact ⟨rfl, rfl, rfl, rfl, rfl⟩
  · exact ⟨hly, hclk, hfb, hevents, hhold⟩

/-- Settles O51: of the operations but IFW, only ADV touches the engine, and its line steps only set bit 0 of IF. -/
theorem onlyIfwClearsTheInterruptFlag : Obligations.OnlyIfwClearsTheInterruptFlag := by
  intro i s t hifw h
  rcases exec_sameEngine h with ⟨n, rfl⟩ | ⟨v, hi, -⟩ | ⟨-, -, hifl, -⟩
  · exact (execAdv_ifl h).imp_right fun hset => ⟨hset, n, rfl⟩
  · exact absurd hi (hifw v)
  · exact .inl hifl

/-- Settles O52: no effect of an operation touches ROM_LEN, PHASE or the inputs. -/
theorem noOperationChangesThePlatform : Obligations.NoOperationChangesThePlatform := by
  intro i s t h
  cases exec_effect h with
  | adv n hadv =>
    obtain ⟨-, -, -, -, hplatform, -⟩ := execAdv_advFrame hadv
    exact hplatform
  | take htake => exact (execTake_frame htake).2.2
  | disc hdisc => exact (execDisc_frame hdisc).2.2
  | ifw v ht =>
    subst ht
    exact ⟨rfl, rfl, rfl⟩
  | access _ hacc => exact hacc.frame.2.2

end Sys2Proof.Machine

namespace Sys2Proof.Machine

/-! ### Reset -/

/-- Settles O9: the reset values are those of the definition; ROM reads as the image up to its size. -/
theorem resetLeavesTheCollectedResetValues : Obligations.ResetLeavesTheCollectedResetValues := by
  refine ⟨fun image serial rest => ?_, fun _ _ => rfl⟩
  have hrom (i : Nat) (h : i < image.length) (hi : i < 0x8000) :
      (resetOver (some image) serial rest).rom.read i = image[i] := by
    change (Memory.ofBytes 0 (image.take 0x8000)).read i = image[i]
    rw [Memory.read_ofBytes, if_pos (Nat.zero_le i), Nat.sub_zero, List.getElem?_take_of_lt hi, List.getElem?_eq_getElem h,
      Option.getD_some]
  refine ⟨rfl, rfl, rfl, rfl, rfl, rfl, rfl, rfl, rfl, rfl, rfl, rfl, rfl, rfl, rfl, rfl,
    fun _ => ⟨rfl, rfl, rfl, rfl, rfl⟩, rfl, hrom, rfl, rfl, rfl, rfl, rfl, ?_, ?_⟩
  · rintro rfl
    rfl
  · rintro id rfl
    rfl

theorem storeOk_nil (n : Nat) : storeOk [] n := by simp [storeOk, Memory.wf, Memory.below]

theorem reset_inv : State.reset.Inv := by
  refine ⟨?_, by decide, by decide, by decide⟩
  exact ⟨storeOk_nil _, storeOk_nil _, storeOk_nil _, storeOk_nil _, storeOk_nil _, storeOk_nil _, Nat.zero_le _⟩

/-- LOAD gives a ROM in its canonical form and inside ROM_LEN (R231). -/
theorem load_storeOk (image : List Byte) :
    storeOk (Memory.ofBytes 0 (image.take Config.romSize)) (min image.length Config.romSize) := by
  refine ⟨Memory.ofBytes_wf _ _, fun c hc => ?_⟩
  have hlt := (Memory.mem_ofBytes hc).2.1
  rw [List.length_take] at hlt
  omega

theorem resetOver_inv (source : Option (List Byte)) (serial : SerialKind) (rest : List Input) :
    (resetOver source serial rest).Inv := by
  obtain ⟨⟨hvram, hoam, hfb, -, hwram, hzram, -⟩, hmaps, hchannel, hly, hclk, -⟩ := reset_inv
  cases source with
  | none => exact ⟨reset_inv.1, hmaps, hchannel, hly, hclk, fun hne => absurd rfl hne⟩
  | some image =>
    exact ⟨⟨hvram, hoam, hfb, load_storeOk image, hwram, hzram, Nat.min_le_right _ _⟩, hmaps, hchannel, hly, hclk,
      fun hne => absurd rfl hne⟩

/-- Settles O10: `State.reset` by evaluation, and LOAD keeps ROM inside ROM_LEN. -/
theorem resetMeetsTheInvariants : Obligations.ResetMeetsTheInvariants := ⟨reset_inv, resetOver_inv⟩

/-! ### What a step can do -/

/-- A step lets a held ADV go on or repeats the state, resets, or runs a well-formed operation in PHASE RUN: during a hold only
one of the display port. -/
inductive StepEffect (s t : State) : Prop where
  | quiet (rest : List Input) (h : t = proceed { s with inputs := rest })
  | reset (source : Option (List Byte)) (serial : SerialKind) (rest : List Input) (h : t = resetOver source serial rest)
  | run (i : Instr) (rest : List Input) (hphase : s.phase = .run) (hport : s.hold = none ∨ i = .take ∨ i = .disc)
      (hwf : i.wellFormed = true) (h : exec i { s with inputs := rest } = .next t)

/-- A display-port request is TAKE or DISC (R86). -/
theorem decode_displayPort {r : Request} {i : Instr} (hport : onDisplayPort r = true) (h : decode r = .ok i) :
    i = .take ∨ i = .disc := by
  cases r with
  | dreq1 w =>
    cases h
    exact decodeDreq_cases w
  | req35 _ | addr16 _ | reg16 _ => cases hport

theorem fetch_quiet {s u : State} (h : fetch s = .quiet u) :
    (∃ rest, u = proceed { s with inputs := rest }) ∨ ∃ source serial rest, u = resetOver source serial rest := by
  unfold fetch at h
  split at h
  next =>
    cases h
    exact .inl ⟨s.inputs, rfl⟩
  next rest _ =>
    cases h
    exact .inl ⟨rest, rfl⟩
  next source serial rest _ =>
    cases h
    exact .inr ⟨source, serial, rest, rfl⟩
  next r rest _ =>
    split at h
    · cases h
    · split at h
      · split at h <;> cases h
        exact .inl ⟨s.inputs, rfl⟩
      · unfold fetchRequest at h
        split at h <;> cases h

theorem fetch_run {i : Instr} {s u : State} (h : fetch s = .run i u) :
    s.phase = .run ∧ (s.hold = none ∨ i = .take ∨ i = .disc) ∧ i.wellFormed = true ∧ ∃ rest, u = { s with inputs := rest } := by
  unfold fetch at h
  split at h
  next => cases h
  next => cases h
  next => cases h
  next r rest _ =>
    split at h
    next => cases h
    next hphase =>
      split at h
      next => split at h <;> cases h
      next hport =>
        unfold fetchRequest at h
        split at h <;> cases h
        next hdecode =>
          refine ⟨not_not.1 hphase, ?_, decode_wellFormed hdecode, rest, rfl⟩
          cases hdisp : onDisplayPort r
          · exact .inl (by simpa [hdisp] using hport)
          · exact .inr (decode_displayPort hdisp hdecode)

theorem step_effect {s t : State} (h : step s = .next t) : StepEffect s t := by
  unfold step at h
  split at h
  next i u hfetch =>
    obtain ⟨hphase, hport, hwf, rest, rfl⟩ := fetch_run hfetch
    exact .run i rest hphase hport hwf h
  next u hfetch =>
    cases h
    rcases fetch_quiet hfetch with ⟨rest, ht⟩ | ⟨source, serial, rest, ht⟩
    · exact .quiet rest ht
    · exact .reset source serial rest ht
  next => cases h
  next => cases h

/-! ### The invariants of R39 -/

theorem regWrite_inv {d : DispReg} {v : Byte} {s : State} (h : s.Inv) (hhold : s.hold = none) : (regWrite d v s).2.Inv := by
  obtain ⟨hengine, hchannel, ⟨hlen, -⟩, -, -, -, -, hmem⟩ := regWrite_frame d v s
  exact inv_congr h hhold (hmem .vram) (hmem .oam) (hmem .rom) (hmem .wram) (hmem .zram) (regWrite_maps h.2.1) hengine
    hchannel hlen

/-- The byte accesses of a well-formed operation keep the invariants, with no ADV in progress. -/
theorem AccessSteps.inv {i : Instr} {s t : State} (h : AccessSteps i s t) (hwf : i.wellFormed = true) (hhold : s.hold = none)
    (hs : s.Inv) : t.Inv := by
  have hnone {u : State} (hu : AccessSteps i s u) : u.hold = none := by
    obtain ⟨⟨-, -, -, -, -, heq⟩, -⟩ := hu.frame
    exact heq.trans hhold
  induction h with
  | start => exact hs
  | respond _ _ ih | byteDone _ _ ih => exact ih
  | read _ _ _ ih => exact regionRead_inv ih
  | write _ _ _ hcell hu ih => exact regionWrite_inv ih (hnone hu) (hcell hwf)
  | regWrite _ _ hu ih => exact regWrite_inv ih (hnone hu)

theorem execTake_inv {s t : State} (h : execTake s = .next t) (hs : s.Inv) : t.Inv := by
  obtain ⟨hstores, hmaps, ⟨hlen, hdisc, hframes⟩, hseq⟩ := hs
  rcases execTake_cases h with ⟨x, rfl⟩ | ⟨f, q, x, hq, rfl⟩
  · exact ⟨hstores, hmaps, ⟨hlen, hdisc, hframes⟩, hseq⟩
  · rw [hq] at hlen hdisc hframes
    exact ⟨hstores, hmaps, ⟨(Nat.le_succ _).trans hlen, fun hc => absurd (hdisc hc) (List.cons_ne_nil f q),
      fun g hg => hframes g (List.mem_cons_of_mem f hg)⟩, hseq⟩

theorem execDisc_inv {s t : State} (h : execDisc s = .next t) (hs : s.Inv) : t.Inv := by
  rcases execDisc_cases h with ⟨x, rfl⟩ | ⟨x, rfl⟩
  · exact hs
  · obtain ⟨hstores, hmaps, -, hseq⟩ := hs
    exact ⟨hstores, hmaps, ⟨Nat.zero_le _, fun _ => rfl, fun _ hf => absurd hf List.not_mem_nil⟩, hseq⟩

/-- What the loop of ADV keeps: the invariants but for CLK, which may hold whole lines, with the display on and PHASE RUN. -/
def LoopInv (s : State) : Prop :=
  StoresOk s ∧ MapsInSync s ∧ ChannelOk s ∧ s.ly.toNat < Config.linesPerFrame ∧ s.hold = none ∧ lcdEnabled s = true ∧
  s.phase = .run

theorem lineStep_loopInv {s : State} (h : LoopInv s) : LoopInv (lineStep s) := by
  obtain ⟨hstores, hmaps, hchannel, -, hhold, hlcd, hphase⟩ := h
  refine ⟨lineStep_storesOk hstores, ?_, ?_, ?_, by rwa [lineStep_hold], ?_, by rwa [lineStep_phase]⟩
  · simpa [MapsInSync] using hmaps
  · simpa [ChannelOk] using hchannel
  · rw [lineStep_ly]
    exact nextLine_lt s.ly
  · simpa [lcdEnabled] using hlcd

theorem handOff_loopInv {s : State} (h : LoopInv s) (hcan : canHandOff s = true) : LoopInv (handOff s) := by
  obtain ⟨hstores, hmaps, hchannel, hly, hhold, hlcd, hphase⟩ := h
  refine ⟨handOff_storesOk hstores, ?_, handOff_channelOk hstores hchannel hcan, by rwa [handOff_ly], by rwa [handOff_hold],
    ?_, by rwa [handOff_phase]⟩
  · simpa [MapsInSync] using hmaps
  · simpa [lcdEnabled] using hlcd

/-- Landing on line 144 leaves the vertical-blank interrupt pending (R164). -/
theorem lineStep_vblankPending {s : State} (h : (nextLine s.ly).toNat = 144) : vblankPending (lineStep s) = true := by
  simp [vblankPending, lineStep_ifl, h, setVblank]

/-- The loop of ADV ends with the invariants, done or held. -/
theorem runLines_inv (dropped : Bool) {s : State} (h : LoopInv s) : (runLines dropped s).Inv := by
  rcases runLines_cases (fun s hs _ => lineStep_loopInv hs) (fun s hs _ hcan => handOff_loopInv hs hcan) dropped s h with
    ⟨d, t, ⟨hstores, hmaps, hchannel, hly, hhold, -⟩, hclk, heq⟩ |
    ⟨d, r, -, ⟨hstores, hmaps, hchannel, hly, -, hlcd, hphase⟩, -, hline, -, heq⟩
  · rw [heq]
    exact ⟨hstores, hmaps, hchannel, hly, fun _ => hclk, fun hne => absurd hhold hne⟩
  · have h144 : (lineStep r).ly.toNat = 144 := by rwa [lineStep_ly]
    rw [heq]
    exact ⟨hstores, hmaps, hchannel, hly, nofun, fun _ => ⟨h144, lineStep_vblankPending hline, hlcd, hphase⟩⟩

theorem execAdv_inv {n : Nat} {s t : State} (h : execAdv n s = .next t) (hhold : s.hold = none) (hphase : s.phase = .run)
    (hs : s.Inv) : t.Inv := by
  unfold execAdv at h
  split at h
  next hlcd =>
    cases h
    obtain ⟨hstores, hmaps, hchannel, hly, -⟩ := hs
    exact runLines_inv false ⟨hstores, hmaps, hchannel, hly, hhold, hlcd, hphase⟩
  next =>
    cases h
    exact hs

/-- Without an ADV in progress there is nothing to go on. -/
theorem proceed_none {s : State} (h : s.hold = none) : proceed s = s := by
  simp only [proceed, h]

theorem proceed_inv {s : State} (hs : s.Inv) : (proceed s).Inv := by
  cases hcan : canHandOff s with
  | false => rwa [proceed_held hcan]
  | true =>
    cases hhold : s.hold with
    | none => rwa [proceed_none hhold]
    | some a =>
      obtain ⟨hstores, hmaps, hchannel, hly, -, hheld⟩ := hs
      obtain ⟨-, -, hlcd, hphase⟩ := hheld (hhold ▸ Option.some_ne_none a)
      rw [proceed_lifted hhold hcan]
      exact runLines_inv _ (handOff_loopInv ⟨hstores, hmaps, hchannel, hly, rfl, hlcd, hphase⟩ hcan)

/-- An accepted operation keeps the invariants. -/
theorem exec_inv {i : Instr} {s t : State} (h : exec i s = .next t) (hphase : s.phase = .run)
    (hport : s.hold = none ∨ i = .take ∨ i = .disc) (hwf : i.wellFormed = true) (hs : s.Inv) : t.Inv := by
  rcases hport with hhold | rfl | rfl
  · cases exec_effect h with
    | adv n hadv => exact execAdv_inv hadv hhold hphase hs
    | take htake => exact execTake_inv htake hs
    | disc hdisc => exact execDisc_inv hdisc hs
    | ifw v ht =>
      subst ht
      obtain ⟨hstores, hmaps, hchannel, hly, hclk, -⟩ := hs
      exact ⟨hstores, hmaps, hchannel, hly, hclk, fun hne => absurd hhold hne⟩
    | access _ hacc => exact hacc.inv hwf hhold hs
  · exact execTake_inv h hs
  · exact execDisc_inv h hs

/-- Settles O11, by what a step can do. -/
theorem everyStepKeepsTheInvariants : Obligations.EveryStepKeepsTheInvariants := by
  intro s t hs h
  cases step_effect h with
  | quiet rest ht =>
    subst ht
    exact proceed_inv (s := { s with inputs := rest }) hs
  | reset source serial rest ht =>
    subst ht
    exact resetOver_inv source serial rest
  | run i rest hphase hport hwf hexec => exact exec_inv hexec hphase hport hwf hs

/-! ### Grayscale frames -/

theorem grayscale_nil : Grayscale [] := fun _ _ _ _ _ _ =>
  ⟨rfl, .inr (.inr (.inr (.inr rfl)))⟩

/-- What the renderer keeps: grayscale frames, and the map it reads is a decoded palette byte. -/
def RenderInv (s : State) : Prop := FramesGrayscale s ∧ s.bgmap = palDecode s.bgp

theorem framesGrayscale_congr {s t : State} (hfb : t.fb = s.fb) (hqueue : t.queue = s.queue) (hevents : t.events = s.events)
    (h : FramesGrayscale s) : FramesGrayscale t := by
  unfold FramesGrayscale
  rwa [hfb, hqueue, hevents]

/-- Every intensity of a decoded map is one a pixel channel may hold (R184). -/
theorem palDecode_isIntensity (p : Byte) (id : BitVec 2) : isIntensity ((palDecode p).get id) := by
  rcases palDecode_get p id with hg | hg | hg | hg <;> simp only [isIntensity, hg, true_or, or_true]

theorem pixel_isIntensity {s : State} (h : s.bgmap = palDecode s.bgp) (x y : Nat) : isIntensity (pixel s x y) := by
  unfold pixel
  rw [h]
  exact palDecode_isIntensity _ _

/-- FB after a rendered line, by pixel and channel (R175, R187). -/
theorem renderLine_fb_pixel (s : State) (line : Nat) {x y c : Nat} (hx : x < Config.fbWidth) (hc : c < Config.channels) :
    (renderLine s line).fb.read (fbIndex x y c) = if y = line then pixel s x line else s.fb.read (fbIndex x y c) := by
  simp only [Config.fbWidth, Config.channels] at hx hc
  have hindex : fbIndex x y c = (y * 160 + x) * 3 + c := rfl
  rw [hindex, renderLine_fb_read]
  by_cases hy : y = line
  · subst hy
    rw [if_pos (by omega), if_pos rfl, show ((y * 160 + x) * 3 + c - y * 480) / 3 = x by omega]
  · rw [if_neg (by omega), if_neg hy]

theorem renderLine_grayscale {s : State} (line : Nat) (h : s.bgmap = palDecode s.bgp) (hfb : Grayscale s.fb) :
    Grayscale (renderLine s line).fb := by
  intro x hx y hy c hc
  rw [renderLine_fb_pixel s line hx hc, renderLine_fb_pixel s line hx (by decide)]
  split
  · exact ⟨rfl, pixel_isIntensity h x line⟩
  · exact hfb x hx y hy c hc

theorem lineStep_renderInv {s : State} (h : RenderInv s) : RenderInv (lineStep s) := by
  obtain ⟨⟨hfb, hqueue, hevents⟩, hmap⟩ := h
  have hfb' : Grayscale (lineStep s).fb := by
    rcases Nat.lt_or_ge ((s.ly.toNat + 1) % 154) 144 with hvisible | hblank
    · rw [lineStep_visible hvisible]
      exact renderLine_grayscale _ hmap hfb
    · rw [lineStep_fb, nextLine_toNat, if_neg (Nat.not_lt.2 hblank)]
      exact hfb
  refine ⟨⟨hfb', ?_, ?_⟩, ?_⟩
  · rwa [lineStep_queue]
  · rwa [lineStep_events]
  · rwa [lineStep_bgmap, lineStep_bgp]

theorem handOff_renderInv {s : State} (h : RenderInv s) : RenderInv (handOff s) := by
  obtain ⟨⟨hfb, hqueue, hevents⟩, hmap⟩ := h
  refine ⟨⟨?_, fun f hf => ?_, fun e he f hframe => ?_⟩, by rwa [handOff_bgmap, handOff_bgp]⟩
  · rw [handOff_fb]
    exact grayscale_nil
  · rw [handOff_queue] at hf
    split at hf
    · rcases List.mem_append.1 hf with hf | hf
      · exact hqueue f hf
      · rwa [List.mem_singleton.1 hf]
    · exact hqueue f hf
  · rw [handOff_events] at he
    rcases List.mem_append.1 he with he | he
    · exact hevents e he f hframe
    · rw [List.mem_singleton.1 he] at hframe
      split at hframe <;> cases hframe
      exact hfb

theorem runLines_renderInv (dropped : Bool) {s : State} (h : RenderInv s) : RenderInv (runLines dropped s) :=
  runLines_keeps (P := RenderInv) (fun _ => lineStep_renderInv) (fun _ => handOff_renderInv) (fun _ _ hu => hu)
    (fun _ _ hu => hu) dropped h

theorem proceed_framesGrayscale {s : State} (h : RenderInv s) : FramesGrayscale (proceed s) := by
  cases hcan : canHandOff s with
  | false =>
    rw [proceed_held hcan]
    exact h.1
  | true =>
    cases hhold : s.hold with
    | none =>
      rw [proceed_none hhold]
      exact h.1
    | some a =>
      rw [proceed_lifted hhold hcan]
      exact (runLines_renderInv _ (handOff_renderInv (s := { s with hold := none }) h)).1

theorem exec_framesGrayscale {i : Instr} {s t : State} (h : exec i s = .next t) (hs : RenderInv s) : FramesGrayscale t := by
  cases exec_effect h with
  | adv n hadv =>
    exact (execAdv_keeps (P := RenderInv) (fun _ _ hu => hu) (fun _ _ hu => hu) (fun _ => lineStep_renderInv)
      (fun _ => handOff_renderInv) (fun _ _ hu => hu) hadv hs).1
  | take htake =>
    obtain ⟨⟨hfb, hqueue, hevents⟩, -⟩ := hs
    rcases execTake_cases htake with ⟨x, rfl⟩ | ⟨f, q, x, hq, rfl⟩
    · exact ⟨hfb, hqueue, hevents⟩
    · exact ⟨hfb, fun g hg => hqueue g (hq ▸ List.mem_cons_of_mem f hg), hevents⟩
  | disc hdisc =>
    obtain ⟨⟨hfb, hqueue, hevents⟩, -⟩ := hs
    rcases execDisc_cases hdisc with ⟨x, rfl⟩ | ⟨x, rfl⟩
    · exact ⟨hfb, hqueue, hevents⟩
    · exact ⟨hfb, fun _ hg => absurd hg List.not_mem_nil, hevents⟩
  | ifw v ht =>
    subst ht
    exact hs.1
  | access _ hacc =>
    obtain ⟨⟨-, -, -, hfb, hevents, -⟩, ⟨hqueue, -⟩, -⟩ := hacc.frame
    exact framesGrayscale_congr hfb hqueue hevents hs.1

theorem resetOver_framesGrayscale (source : Option (List Byte)) (serial : SerialKind) (rest : List Input) :
    FramesGrayscale (resetOver source serial rest) := by
  cases source <;> exact ⟨grayscale_nil, fun _ hf => absurd hf List.not_mem_nil, fun _ he => absurd he List.not_mem_nil⟩

/-- Settles O12: a frame's bytes come from the fill or from the renderer, whose map is in sync, and are then only moved. -/
theorem everyFrameStaysGrayscale : Obligations.EveryFrameStaysGrayscale := by
  intro s t hinv hs h
  obtain ⟨-, ⟨hmap, -⟩, -⟩ := hinv
  cases step_effect h with
  | quiet rest ht =>
    subst ht
    exact proceed_framesGrayscale (s := { s with inputs := rest }) ⟨hs, hmap⟩
  | reset source serial rest ht =>
    subst ht
    exact resetOver_framesGrayscale source serial rest
  | run i rest _ _ _ hexec => exact exec_framesGrayscale hexec ⟨hs, hmap⟩

end Sys2Proof.Machine

/-! ## Proofs: the memory space and its accesses (20_memory.md) -/

namespace Sys2Proof.Machine

/-! ### Accesses that reach cells -/

/-- READ1 of an address that reaches a cell (R114). -/
theorem read1_cell {a : Addr} {s : State} {c : Cell} (h : busCell a s = some c) :
    read1 a s = (.value .ok (s.readCell c), s) := by
  unfold busCell at h
  simp only [read1, regionRead, h]

/-- WRITE1 of an address that reaches a cell (R114). -/
theorem write1_cell {a : Addr} {s : State} {c : Cell} (v : Byte) (h : busCell a s = some c) :
    write1 a v s = (.done .ok, s.writeCell c v) := by
  unfold busCell at h
  simp only [write1, regionWrite, h]

theorem execRdb_cell {a : Addr} {s : State} {c : Cell} (h : busCell a s = some c) :
    execRdb a s = .next (s.respond (.done .ok (zext (s.readCell c)))) := by
  simp only [execRdb, read1_cell h]

theorem execWrb_cell {a : Addr} {s : State} {c : Cell} (v : Byte) (h : busCell a s = some c) :
    execWrb a v s = .next ((s.writeCell c v).respond (.done .ok 0)) := by
  simp only [execWrb, write1_cell v h]

theorem execRdw_cells {a : Addr} {s : State} {c0 c1 : Cell} (h0 : busCell a s = some c0) (h1 : busCell (a + 1) s = some c1) :
    execRdw a s = .next (s.respond (.done .ok (wordOf (s.readCell c1) (s.readCell c0)))) := by
  simp only [execRdw, nextAddr, read1_cell h0, read1_cell h1]
  rfl

/-- Which cell an address reaches depends on ROM_LEN alone (R116). -/
theorem busCell_congr {s t : State} (h : t.romLen = s.romLen) (a : Addr) : busCell a t = busCell a s := by
  simp only [busCell, regionCell, h]

@[simp] theorem busCell_respond (a : Addr) (s : State) (x : Resp) : busCell a (s.respond x) = busCell a s :=
  busCell_congr (s.respond_romLen x) a

@[simp] theorem busCell_writeCell (a : Addr) (s : State) (c : Cell) (v : Byte) : busCell a (s.writeCell c v) = busCell a s :=
  busCell_congr (s.writeCell_romLen c v) a

theorem execWrw_cells {a : Addr} {s : State} {c0 c1 : Cell} (w : Half) (h0 : busCell a s = some c0)
    (h1 : busCell (a + 1) s = some c1) :
    execWrw a w s = .next (((s.writeCell c0 (lowByte w)).writeCell c1 (highByte w)).respond (.done .ok 0)) := by
  have h1' : busCell (a + 1) (s.writeCell c0 (lowByte w)) = some c1 := by rwa [busCell_writeCell]
  simp only [execWrw, nextAddr, write1_cell (lowByte w) h0, write1_cell (highByte w) h1']
  rfl

/-! ### The two cells of a word -/

/-- The index of the cell that an address reaches has the address's parity: every store mask keeps bit 0 (R91). -/
theorem busCell_index_parity {a : Addr} {s : State} {c : Cell} (h : busCell a s = some c) : c.index % 2 = a.toNat % 2 := by
  unfold busCell at h
  cases hr : region a <;> rw [hr] at h <;> simp only [regionCell] at h
  case rom =>
    split at h <;> cases h
    rfl
  case vram | wram | oam | zram =>
    cases h
    simp only [vramIndex_eq, wramIndex_eq, oamIndex_eq, zramIndex_eq]
    omega
  case cram | serial | display | unmapped => cases h

/-- The two bytes of a word are distinct cells: their indexes differ in parity, across the top of the space too. -/
theorem busCell_next_ne {a : Addr} {s : State} {c0 c1 : Cell} (h0 : busCell a s = some c0)
    (h1 : busCell (a + 1) s = some c1) : c0 ≠ c1 := by
  rintro rfl
  have hlow := busCell_index_parity h0
  have hhigh := busCell_index_parity h1
  rw [BitVec.toNat_add, show (1 : Addr).toNat = 1 from rfl] at hhigh
  omega

/-- A word is its two bytes (R53). -/
theorem wordOf_highByte_lowByte (w : Half) : wordOf (highByte w) (lowByte w) = w := by
  have hsplit : w.extractLsb' 8 8 ++ w.extractLsb' 0 8 = w.extractLsb' 0 16 :=
    BitVec.extractLsb'_append_extractLsb'_eq_extractLsb' rfl
  exact hsplit.trans BitVec.extractLsb'_eq_self

/-- A word written to two distinct cells leaves its low byte in the first. -/
theorem readCell_writeCell_first {s : State} {c0 c1 : Cell} (hs : StoresOk s) (hne : c0 ≠ c1) (v0 v1 : Byte) :
    ((s.writeCell c0 v0).writeCell c1 v1).readCell c0 = v0 := by
  rw [State.readCell_writeCell_other _ v1 hne, State.readCell_writeCell_same (storesOk_mem hs c0.store).1]

/-! ### Read after write -/

/-- Settles O20: both accesses reach the cell, and a canonical store reads back what was written. -/
theorem writtenByteIsReadBack : Obligations.WrittenByteIsReadBack := by
  intro a v s c hs h
  refine ⟨_, execWrb_cell v h, ?_⟩
  have hcell : busCell a ((s.writeCell c v).respond (.done .ok 0)) = some c := by simpa using h
  have hread : ((s.writeCell c v).respond (.done .ok 0)).readCell c = v := by
    rw [State.respond_readCell, State.readCell_writeCell_same (storesOk_mem hs c.store).1]
  exact (execRdb_cell hcell).trans (by rw [hread]; rfl)

/-- Settles O21: the two bytes are distinct cells, so the second write leaves the first byte as it is. -/
theorem writtenWordIsReadBack : Obligations.WrittenWordIsReadBack := by
  intro a w s c0 c1 hs h0 h1
  refine ⟨_, execWrw_cells w h0 h1, rfl, ?_⟩
  generalize ht : ((s.writeCell c0 (lowByte w)).writeCell c1 (highByte w)).respond (.done .ok 0) = t
  have hcell0 : busCell a t = some c0 := by simpa [← ht] using h0
  have hcell1 : busCell (a + 1) t = some c1 := by simpa [← ht] using h1
  have hread0 : t.readCell c0 = lowByte w := by
    rw [← ht]
    exact readCell_writeCell_first hs (busCell_next_ne h0 h1) _ _
  have hread1 : t.readCell c1 = highByte w := by
    have hlow : StoresOk (s.writeCell c0 (lowByte w)) := writeCell_storesOk hs (busCell_inside h0) _
    rw [← ht]
    exact State.readCell_writeCell_same (storesOk_mem hlow c1.store).1 _
  refine (execRdw_cells hcell0 hcell1).trans ?_
  rw [hread0, hread1, wordOf_highByte_lowByte]
  rfl

/-! ### Accepting requests -/

/-- A request in PHASE RUN goes to the decoder when no ADV holds, and one of the display port in any case (R81, R85). -/
theorem fetch_accepted {s : State} {r : Request} {rest : List Input} (hinputs : s.inputs = .request r :: rest)
    (hphase : s.phase = .run) (hport : s.hold = none ∨ onDisplayPort r = true) :
    fetch s = fetchRequest r { s with inputs := rest } := by
  have hfree : (s.hold.isSome && !onDisplayPort r) = false := by
    rcases hport with hhold | hdisp
    · rw [hhold]
      rfl
    · rw [hdisp, Bool.not_true, Bool.and_false]
  simp [fetch, hinputs, hphase, hfree]

/-- Settles O6: an accepted request goes to the decoder, and the step runs what it decodes to. -/
theorem stepRunsTheDecodedRequest : Obligations.StepRunsTheDecodedRequest := by
  intro s r rest i hinputs hphase hport hdecode
  have hfetch : fetch s = .run i { s with inputs := rest } := by
    rw [fetch_accepted hinputs hphase hport]
    simp only [fetchRequest, hdecode]
  simp only [step, hfetch]

end Sys2Proof.Machine

/-! ## Proofs: encoding and decoding (30_encoding.md) -/

namespace Sys2Proof

/-! ### Processor-port words by operation code (R82, R84) -/

@[simp] theorem decodeReq_rdb (a : Addr) (d : Half) : decodeReq (reqWord 0 a d) = .rdb a := by simp [decodeReq]

@[simp] theorem decodeReq_wrb (a : Addr) (d : Half) : decodeReq (reqWord 1 a d) = .wrb a (d.extractLsb' 0 8) := by
  simp [decodeReq]

@[simp] theorem decodeReq_rdw (a : Addr) (d : Half) : decodeReq (reqWord 2 a d) = .rdw a := by simp [decodeReq]

@[simp] theorem decodeReq_wrw (a : Addr) (d : Half) : decodeReq (reqWord 3 a d) = .wrw a d := by simp [decodeReq]

@[simp] theorem decodeReq_adv (a : Addr) (d : Half) : decodeReq (reqWord 4 a d) = .adv d.toNat := by simp [decodeReq]

@[simp] theorem decodeReq_ifr (a : Addr) (d : Half) : decodeReq (reqWord 5 a d) = .ifr := by simp [decodeReq]

@[simp] theorem decodeReq_ifw (a : Addr) (d : Half) : decodeReq (reqWord 6 a d) = .ifw (d.extractLsb' 0 8) := by
  simp [decodeReq]

@[simp] theorem decodeReq_reservedOp7 (a : Addr) (d : Half) : decodeReq (reqWord 7 a d) = .reservedOp7 := by
  simp [decodeReq]

/-- A request word as arithmetic is the concatenation of its fields (R80, R96). -/
theorem ofNat_eq_reqWord (op : Nat) (a : Addr) (d : Half) :
    BitVec.ofNat 35 (op * 2 ^ 32 + a.toNat * 2 ^ 16 + d.toNat) = reqWord (BitVec.ofNat 3 op) a d := by
  have ha := a.isLt
  have hd := d.isLt
  apply BitVec.eq_of_toNat_eq
  rw [reqWord_toNat, BitVec.toNat_ofNat, BitVec.toNat_ofNat]
  omega

theorem decode_requestWord (op : Nat) {a : Addr} {d : Half} {i : Instr} (h : decodeReq (reqWord (BitVec.ofNat 3 op) a d) = i) :
    decode (.req35 (BitVec.ofNat 35 (op * 2 ^ 32 + a.toNat * 2 ^ 16 + d.toNat))) = .ok i := by
  rw [ofNat_eq_reqWord, ← h]
  rfl

/-- Settles O2: the word is the concatenation of its fields, and the decoder reads them back by the code. -/
theorem requestFieldsAreReadByOperationCode : Obligations.RequestFieldsAreReadByOperationCode := fun a d =>
  ⟨decode_requestWord 0 (decodeReq_rdb a d), decode_requestWord 1 (decodeReq_wrb a d),
    decode_requestWord 2 (decodeReq_rdw a d), decode_requestWord 3 (decodeReq_wrw a d),
    decode_requestWord 4 (decodeReq_adv a d), decode_requestWord 5 (decodeReq_ifr a d),
    decode_requestWord 6 (decodeReq_ifw a d), decode_requestWord 7 (decodeReq_reservedOp7 a d)⟩

/-! ### Decoding what was encoded -/

/-- The word of an access in the block of row `k` of the table decodes to the row's operation. -/
theorem decodeAddr_row (k : Nat) {r : AddrRow} {a : Addr} (acc : ByteAccess) (hrow : addrRows[k]? = some r)
    (hb : inBlock a r.mask r.pattern = true) : decodeAddr (accessWord a acc) = .ok (r.op a acc) :=
  decodeAddr_word acc (List.mem_of_getElem? hrow) hb

/-- Settles O3: a port operation by its code, a block access by its row of the table, a register access by its address. -/
theorem decodingAnEncodedOperationGivesItBack : Obligations.DecodingAnEncodedOperationGivesItBack := by
  intro i hwf
  cases i with
  | rdb a => exact congrArg Except.ok (decodeReq_rdb a 0)
  | wrb a v => exact congrArg Except.ok ((decodeReq_wrb a _).trans (congrArg (Instr.wrb a) (low_byte_of_word v)))
  | rdw a => exact congrArg Except.ok (decodeReq_rdw a 0)
  | wrw a w => exact congrArg Except.ok (decodeReq_wrw a w)
  | adv n =>
    have hn : n < 2 ^ 16 := of_decide_eq_true hwf
    exact congrArg Except.ok ((decodeReq_adv 0 _).trans (congrArg Instr.adv (Nat.mod_eq_of_lt hn)))
  | ifr => exact congrArg Except.ok (decodeReq_ifr 0 0)
  | ifw v => exact congrArg Except.ok ((decodeReq_ifw 0 _).trans (congrArg Instr.ifw (low_byte_of_word v)))
  | reservedOp7 => exact congrArg Except.ok (decodeReq_reservedOp7 0 0)
  | take | disc => rfl
  | rom0000 a acc => exact decodeAddr_row 0 acc rfl hwf
  | vram8000 a acc => exact decodeAddr_row 1 acc rfl hwf
  | cramA000 a acc => exact decodeAddr_row 2 acc rfl hwf
  | wramC000 a acc => exact decodeAddr_row 3 acc rfl hwf
  | wramE000 a acc => exact decodeAddr_row 4 acc rfl hwf
  | wramF000 a acc => exact decodeAddr_row 5 acc rfl hwf
  | wramF800 a acc => exact decodeAddr_row 6 acc rfl hwf
  | wramFC00 a acc => exact decodeAddr_row 7 acc rfl hwf
  | oamFE00 a acc => exact decodeAddr_row 8 acc rfl hwf
  | oamFE80 a acc => exact decodeAddr_row 9 acc rfl hwf
  | unmappedFEA0 a acc => exact decodeAddr_row 10 acc rfl hwf
  | unmappedFEC0 a acc => exact decodeAddr_row 11 acc rfl hwf
  | unmappedFF00 acc => exact decodeAddr_row 12 acc rfl rfl
  | serialFF01 acc => exact decodeAddr_row 13 acc rfl rfl
  | serialFF02 acc => exact decodeAddr_row 14 acc rfl rfl
  | unmappedFF03 acc => exact decodeAddr_row 15 acc rfl rfl
  | unmappedFF04 a acc => exact decodeAddr_row 16 acc rfl hwf
  | unmappedFF08 a acc => exact decodeAddr_row 17 acc rfl hwf
  | unmappedFF10 a acc => exact decodeAddr_row 18 acc rfl hwf
  | unmappedFF20 a acc => exact decodeAddr_row 19 acc rfl hwf
  | displayFF40 a acc => exact decodeAddr_row 20 acc rfl hwf
  | displayFF48 a acc => exact decodeAddr_row 21 acc rfl hwf
  | unmappedFF4C a acc => exact decodeAddr_row 22 acc rfl hwf
  | unmappedFF50 a acc => exact decodeAddr_row 23 acc rfl hwf
  | unmappedFF60 a acc => exact decodeAddr_row 24 acc rfl hwf
  | zramFF80 a acc => exact decodeAddr_row 25 acc rfl hwf
  | regFF40 acc | regFF41 acc | regFF42 acc | regFF43 acc | regFF44 acc | regFF45 acc | regFF46 acc | regFF47 acc
  | regFF48 acc | regFF49 acc | regFF4A acc | regFF4B acc => exact decodeReg_word (r := ⟨_, _⟩) acc rfl

/-- Settles O4: by the format of the word, each row of the table makes a well-formed operation of its words. -/
theorem decodedOperationsAreWellFormed : Obligations.DecodedOperationsAreWellFormed := fun _ _ h => decode_wellFormed h

/-- Settles O1: the words are fixed, so the decoder is run on them. -/
theorem specWordsDecodeToTheirOperations : Obligations.SpecWordsDecodeToTheirOperations :=
  ⟨rfl, rfl, rfl, rfl, rfl, rfl, rfl, rfl, rfl, rfl, rfl, rfl, rfl, rfl, rfl, rfl⟩

/-! ### The address blocks as ranges (R87) -/

/-- The last address of a row's block. -/
def AddrRow.last (r : AddrRow) : Nat := r.pattern.toNat + (0xFFFF - r.mask.toNat)

/-- Clearing the low `k` bits rounds down to a multiple of `2 ^ k`. -/
theorem toNat_and_highMask (a : Addr) (k : Nat) : (a &&& BitVec.allOnes 16 <<< k).toNat = a.toNat / 2 ^ k * 2 ^ k := by
  have hle : a.toNat / 2 ^ k * 2 ^ k < 2 ^ 16 := (Nat.div_mul_le_self _ _).trans_lt a.isLt
  rw [← BitVec.shiftLeft_ushiftRight, BitVec.toNat_shiftLeft, BitVec.toNat_ushiftRight, Nat.shiftRight_eq_div_pow,
    Nat.shiftLeft_eq, Nat.mod_eq_of_lt hle]

/-- The mask of every row clears the low bits in which its block's addresses differ, and the pattern has them clear. -/
theorem addrRow_shape : ∀ r ∈ addrRows, ∃ k < 16,
    r.mask = BitVec.allOnes 16 <<< k ∧ r.last = r.pattern.toNat + (2 ^ k - 1) ∧ 2 ^ k ∣ r.pattern.toNat := by
  decide

/-- The addresses from a row's pattern to its last one are in its block. -/
theorem inBlock_of_range {r : AddrRow} (hr : r ∈ addrRows) {a : Addr} (hlow : r.pattern.toNat ≤ a.toNat)
    (hlast : a.toNat ≤ r.last) : inBlock a r.mask r.pattern = true := by
  obtain ⟨k, -, hmask, hk, q, hq⟩ := addrRow_shape r hr
  have hpos : 0 < 2 ^ k := Nat.two_pow_pos k
  have hdiv : a.toNat / 2 ^ k = q := by
    rw [Nat.div_eq_iff hpos, Nat.mul_comm]
    omega
  refine beq_iff_eq.2 (BitVec.eq_of_toNat_eq ?_)
  rw [hmask, toNat_and_highMask, hdiv, hq, Nat.mul_comm]

/-- Whether the blocks of `rows`, in this order, tile the address space from `n` up. -/
def tilesFrom : Nat → List AddrRow → Bool
  | n, [] => n == 2 ^ 16
  | n, r :: rows => r.pattern.toNat == n && tilesFrom (r.last + 1) rows

/-- An address of the space that is tiled is in the range of one of the tiles. -/
theorem exists_row_of_tilesFrom {rows : List AddrRow} {n : Nat} (h : tilesFrom n rows = true) {a : Addr}
    (hn : n ≤ a.toNat) : ∃ r ∈ rows, r.pattern.toNat ≤ a.toNat ∧ a.toNat ≤ r.last := by
  induction rows generalizing n with
  | nil =>
    have hend : n = 2 ^ 16 := eq_of_beq h
    have ha := a.isLt
    omega
  | cons r rows ih =>
    rw [tilesFrom, Bool.and_eq_true, beq_iff_eq] at h
    obtain ⟨hfirst, hrest⟩ := h
    rcases Nat.lt_or_ge r.last a.toNat with hafter | hin
    · obtain ⟨q, hq, hrange⟩ := ih hrest hafter
      exact ⟨q, List.mem_cons_of_mem r hq, hrange⟩
    · exact ⟨r, List.mem_cons_self, hfirst ▸ hn, hin⟩

theorem addrRows_tile : tilesFrom 0 addrRows = true := by decide

end Sys2Proof

namespace Sys2Proof.Machine

/-! ### The region of a block (R50, R87) -/

/-- The region does not change from `m` to `n` when no range ends between them. -/
theorem regionIn_eq {ends : List (Nat × Region)} {m n : Nat} (hmn : m ≤ n) (h : ∀ e ∈ ends, m ≤ e.1 → n ≤ e.1) :
    regionIn n ends = regionIn m ends := by
  induction ends with
  | nil => rfl
  | cons e ends ih =>
    obtain ⟨hhead, htail⟩ := List.forall_mem_cons.1 h
    have hiff : n ≤ e.1 ↔ m ≤ e.1 := ⟨hmn.trans, hhead⟩
    simp only [regionIn, hiff, ih htail]

/-- A row's pattern is in the row's region, and no range of R50 ends inside its block. -/
theorem addrRow_inOneRange : ∀ r ∈ addrRows,
    region r.pattern = r.region ∧ ∀ e ∈ regionEnds, r.pattern.toNat ≤ e.1 → r.last ≤ e.1 := by
  decide

theorem region_of_range {r : AddrRow} (hr : r ∈ addrRows) {a : Addr} (hlow : r.pattern.toNat ≤ a.toNat)
    (hlast : a.toNat ≤ r.last) : r.region = region a := by
  obtain ⟨hregion, hends⟩ := addrRow_inOneRange r hr
  rw [← hregion]
  exact (regionIn_eq hlow fun e he hle => hlast.trans (hends e he hle)).symm

/-- Settles O5: the blocks tile the space, so one row holds the address; the rows are disjoint, so no other does. -/
theorem everyAddressIsInExactlyOneBlock : Obligations.EveryAddressIsInExactlyOneBlock := by
  intro a
  obtain ⟨r, hr, hlow, hlast⟩ := exists_row_of_tilesFrom addrRows_tile (Nat.zero_le a.toNat)
  obtain ⟨honly, hfound⟩ := rows_unique addrRows_disjoint hr (inBlock_of_range hr hlow hlast)
  exact ⟨r, honly, hfound, region_of_range hr hlow hlast⟩

/-- The region of the row found for an address is the address's. -/
theorem findAddrRow_region {a : Addr} {r : AddrRow} (h : findAddrRow a = some r) : r.region = region a := by
  obtain ⟨q, -, hq, hregion⟩ := everyAddressIsInExactlyOneBlock a
  cases h.symm.trans hq
  exact hregion

/-! ### Address rows and the bus (R100, R114) -/

theorem eq_of_inBlock_exact {a pattern : Addr} (h : inBlock a 0xFFFF pattern = true) : a = pattern := by
  have hall : a &&& 0xFFFF = a := BitVec.and_allOnes
  rw [← eq_of_beq h, hall]

/-- The operation of a row does the byte access of the row's region at every address of its block. -/
theorem exec_addrRow {r : AddrRow} (hr : r ∈ addrRows) {a : Addr} (hb : inBlock a r.mask r.pattern = true) (acc : ByteAccess)
    (s : State) : exec (r.op a acc) s = regionAccess r.region a acc s := by
  have hall : ∀ q ∈ addrRows, inBlock a q.mask q.pattern = true → exec (q.op a acc) s = regionAccess q.region a acc s := by
    simp only [addrRows, addrRowsLow, addrRowsHigh, List.cons_append, List.nil_append, List.forall_mem_cons]
    refine ⟨fun _ => rfl, fun _ => rfl, fun _ => rfl, fun _ => rfl, fun _ => rfl, fun _ => rfl, fun _ => rfl, fun _ => rfl,
      fun _ => rfl, fun _ => rfl, fun _ => rfl, fun _ => rfl, ?ff00, ?ff01, ?ff02, ?ff03, fun _ => rfl, fun _ => rfl,
      fun _ => rfl, fun _ => rfl, fun _ => rfl, fun _ => rfl, fun _ => rfl, fun _ => rfl, fun _ => rfl, fun _ => rfl,
      fun _ hq => absurd hq List.not_mem_nil⟩
    case ff00 | ff01 | ff02 | ff03 =>
      intro hexact
      cases eq_of_inBlock_exact hexact
      rfl
  exact hall r hr hb

/-- The row that an address decodes to does the byte access of the bus there. -/
theorem exec_findAddrRow {a : Addr} {r : AddrRow} (h : findAddrRow a = some r) (acc : ByteAccess) (s : State) :
    exec (r.op a acc) s = regionAccess (region a) a acc s := by
  have hb := List.find?_some (p := fun q : AddrRow => inBlock a q.mask q.pattern) h
  rw [exec_addrRow (List.mem_of_find?_eq_some h) hb, findAddrRow_region h]

/-- Recording a byte result and giving a response differ in those two fields only. -/
theorem byteDone_respond_agree {s t : State} (h : t.byteRes = s.byteRes) (x : ByteRes) (y : Resp) :
    ({ t.byteDone x with byteRes := s.byteRes, resp := s.resp } : State) = { t.respond y with resp := s.resp } := by
  rw [← h]
  rfl

theorem read1_byteRes (a : Addr) (s : State) : (read1 a s).2.byteRes = s.byteRes :=
  congrArg (·.byteRes) (regionRead_state (region a) a s).1

theorem write1_byteRes (a : Addr) (v : Byte) (s : State) : (write1 a v s).2.byteRes = s.byteRes := by
  obtain ⟨-, -, -, -, -, hbyteRes⟩ := regionWrite_frame (region a) a v s
  exact hbyteRes

/-- Settles O33: the row and the bus operation make the same access, and each only records what it returned. -/
theorem addressRowsAgreeWithTheBus : Obligations.AddressRowsAgreeWithTheBus := by
  intro a v s r hrow
  rw [exec_findAddrRow hrow, exec_findAddrRow hrow]
  constructor
  · cases hres : (read1 a s).1 with
    | value st b =>
      exact ⟨_, _, rfl, by simp only [exec, execRdb, hres], byteDone_respond_agree (read1_byteRes a s) _ _,
        .inl ⟨st, b, congrArg (some <| ByteRes.read ·) hres, rfl⟩⟩
    | error e =>
      exact ⟨_, _, rfl, by simp only [exec, execRdb, hres, State.raise_eq], byteDone_respond_agree (read1_byteRes a s) _ _,
        .inr ⟨e, congrArg (some <| ByteRes.read ·) hres, rfl⟩⟩
  · cases hres : (write1 a v s).1 with
    | done st =>
      exact ⟨_, _, rfl, by simp only [exec, execWrb, hres], byteDone_respond_agree (write1_byteRes a v s) _ _,
        .inl ⟨st, congrArg (some <| ByteRes.wrote ·) hres, rfl⟩⟩
    | error e =>
      exact ⟨_, _, rfl, by simp only [exec, execWrb, hres, State.raise_eq], byteDone_respond_agree (write1_byteRes a v s) _ _,
        .inr ⟨e, congrArg (some <| ByteRes.wrote ·) hres, rfl⟩⟩

/-! ### Requests that are not accepted (R81, R85, R192) -/

theorem fetch_notRunning {s : State} {r : Request} {rest : List Input} (hinputs : s.inputs = .request r :: rest)
    (hphase : s.phase ≠ .run) : fetch s = .stuck .notRunning := by
  simp only [fetch, hinputs, if_pos hphase]

/-- A processor-port request during a hold: the hold ends first if it is lifted, and otherwise there is no step. -/
theorem fetch_held {s : State} {r : Request} {rest : List Input} (hinputs : s.inputs = .request r :: rest)
    (hphase : s.phase = .run) (hport : onDisplayPort r = false) (hhold : s.hold ≠ none) :
    fetch s = if canHandOff s then .quiet (proceed s) else .stuck .portHeld := by
  have hwaits : (s.hold.isSome && !onDisplayPort r) = true := by
    rw [Option.isSome_iff_ne_none.2 hhold, hport]
    rfl
  simp only [fetch, hinputs, hphase, ne_eq, not_true_eq_false, if_false, if_pos hwaits]

/-- Settles O7: PHASE is looked at first, then the hold, which is lifted exactly when the hand-off is possible. -/
theorem requestsAreAcceptedOnlyWhileRunningAndNotHeld : Obligations.RequestsAreAcceptedOnlyWhileRunningAndNotHeld := by
  intro s r rest hinputs
  refine ⟨fun hphase => ?notRunning, fun hphase hport hhold hconn hqueue => ?full, fun hphase hport hhold hlifted => ?lifted⟩
  case notRunning => simp only [step, fetch_notRunning hinputs hphase]
  case full =>
    have hcan : ¬ canHandOff s = true := by
      rw [canHandOff_iff, hconn]
      exact not_or.2 ⟨hqueue, Bool.true_eq_false_eq_False⟩
    simp only [step, fetch_held hinputs hphase hport hhold, if_neg hcan]
  case lifted =>
    have hcan : canHandOff s = true := (canHandOff_iff s).2 hlifted.symm
    simp only [step, fetch_held hinputs hphase hport hhold, if_pos hcan]

end Sys2Proof.Machine

/-! ## Proofs: the bus and its byte accesses (40_bus_access.md) -/

namespace Sys2Proof.Machine

/-! ### What each region answers (R116 to R124) -/

theorem regionCell_rom {a : Addr} {s : State} (h : a.toNat < s.romLen) : regionCell .rom a s = some ⟨.rom, a.toNat⟩ := if_pos h

theorem regionCell_vram (a : Addr) (s : State) : regionCell .vram a s = some ⟨.vram, a.toNat % 0x2000⟩ := by
  rw [← vramIndex_eq, regionCell]

theorem regionCell_wram (a : Addr) (s : State) : regionCell .wram a s = some ⟨.wram, a.toNat % 0x2000⟩ := by
  rw [← wramIndex_eq, regionCell]

theorem regionCell_oam (a : Addr) (s : State) : regionCell .oam a s = some ⟨.oam, a.toNat % 0x100⟩ := by
  rw [← oamIndex_eq, regionCell]

theorem regionCell_zram (a : Addr) (s : State) : regionCell .zram a s = some ⟨.zram, a.toNat % 0x80⟩ := by
  rw [← zramIndex_eq, regionCell]

theorem regionRead_cell {r : Region} {a : Addr} {s : State} {c : Cell} (h : regionCell r a s = some c) :
    regionRead r a s = (.value .ok (s.readCell c), s) := by
  simp only [regionRead, h]

theorem regionWrite_cell {r : Region} {a : Addr} {s : State} {c : Cell} (v : Byte) (h : regionCell r a s = some c) :
    regionWrite r a v s = (.done .ok, s.writeCell c v) := by
  simp only [regionWrite, h]

/-- A ROM address at or above ROM_LEN reads as an unmapped one does (R116, D9). -/
theorem regionRead_rom_absent {a : Addr} {s : State} (h : s.romLen ≤ a.toNat) :
    regionRead .rom a s = (.value .unmapped Config.openBus, s) := by
  simp only [regionRead, regionCell, if_neg (Nat.not_lt.2 h)]

theorem regionWrite_rom_absent {a : Addr} {s : State} (v : Byte) (h : s.romLen ≤ a.toNat) :
    regionWrite .rom a v s = (.done .unmapped, s) := by
  simp only [regionWrite, regionCell, if_neg (Nat.not_lt.2 h)]

theorem regionRead_unmapped (a : Addr) (s : State) :
    regionRead .unmapped a s = (.value .unmapped Config.openBus, s) := rfl

theorem regionWrite_unmapped (a : Addr) (v : Byte) (s : State) : regionWrite .unmapped a v s = (.done .unmapped, s) := rfl

theorem regionRead_cram (a : Addr) (s : State) : regionRead .cram a s = (.error .unimpl, s) := rfl

theorem regionWrite_cram (a : Addr) (v : Byte) (s : State) : regionWrite .cram a v s = (.error .unimpl, s) := rfl

theorem regionRead_serial (a : Addr) (s : State) :
    regionRead .serial a s = (.value .ok (serialRead (serialReg a) s.serial).1,
      { s with serial := (serialRead (serialReg a) s.serial).2 }) := rfl

theorem regionWrite_serial (a : Addr) (v : Byte) (s : State) :
    regionWrite .serial a v s = (.done .ok, { s with serial := serialWrite (serialReg a) v s.serial }) := rfl

theorem regionRead_display {a : Addr} {d : DispReg} (s : State) (h : dispReg a = some d) :
    regionRead .display a s = (regRead d s, s) := by
  simp only [regionRead, regionCell, h]

theorem regionWrite_display {a : Addr} {d : DispReg} (v : Byte) (s : State) (h : dispReg a = some d) :
    regionWrite .display a v s = regWrite d v s := by
  simp only [regionWrite, regionCell, h]

/-! ### The addresses of the display registers (R88) -/

/-- The address of a register of the display region. -/
def DispReg.addr : DispReg → Addr
  | .lcdc => 0xFF40
  | .stat => 0xFF41
  | .scy => 0xFF42
  | .scx => 0xFF43
  | .ly => 0xFF44
  | .noneFF45 => 0xFF45
  | .noneFF46 => 0xFF46
  | .bgp => 0xFF47
  | .obp0 => 0xFF48
  | .obp1 => 0xFF49
  | .wy => 0xFF4A
  | .wx => 0xFF4B

theorem dispReg_addr (d : DispReg) : dispReg d.addr = some d := by
  cases d <;> rfl

theorem region_dispReg_addr (d : DispReg) : region d.addr = .display := by
  cases d <;> rfl

theorem addr_of_dispReg {a : Addr} {d : DispReg} (h : dispReg a = some d) : a = d.addr := by
  unfold dispReg at h
  split at h <;> cases h
  all_goals exact BitVec.eq_of_toNat_eq ‹_›

theorem read1_register {a : Addr} (d : DispReg) (s : State) (h : a.toNat = d.addr.toNat) : read1 a s = (regRead d s, s) := by
  cases BitVec.eq_of_toNat_eq h
  rw [read1, region_dispReg_addr, regionRead_display s (dispReg_addr d)]

theorem write1_register {a : Addr} (d : DispReg) (v : Byte) (s : State) (h : a.toNat = d.addr.toNat) :
    write1 a v s = regWrite d v s := by
  cases BitVec.eq_of_toNat_eq h
  rw [write1, region_dispReg_addr, regionWrite_display v s (dispReg_addr d)]

/-! ### The response of a byte access (R110, R111) -/

/-- What RDB answers when READ1 returned `r` (R110). -/
def ReadRes.resp : ReadRes → Resp
  | .value st b => .done st (zext b)
  | .error e => .error e

/-- What WRB answers when WRITE1 returned `r` (R111). -/
def WriteRes.resp : WriteRes → Resp
  | .done st => .done st 0
  | .error e => .error e

theorem exec_rdb (a : Addr) (s : State) : exec (.rdb a) s = .next ((read1 a s).2.respond (read1 a s).1.resp) := by
  simp only [exec, execRdb]
  cases (read1 a s).1 <;> rfl

theorem exec_wrb (a : Addr) (v : Byte) (s : State) :
    exec (.wrb a v) s = .next ((write1 a v s).2.respond (write1 a v s).1.resp) := by
  simp only [exec, execWrb]
  cases (write1 a v s).1 <;> rfl

theorem exec_rdb_of_region {a : Addr} {r : Region} {s t : State} {x : ReadRes} (hr : region a = r)
    (h : regionRead r a s = (x, t)) : exec (.rdb a) s = .next (t.respond x.resp) := by
  rw [exec_rdb, read1, hr, h]

theorem exec_wrb_of_region {a : Addr} {v : Byte} {r : Region} {s t : State} {x : WriteRes} (hr : region a = r)
    (h : regionWrite r a v s = (x, t)) : exec (.wrb a v) s = .next (t.respond x.resp) := by
  rw [exec_wrb, write1, hr, h]

theorem exec_rdb_register {a : Addr} (d : DispReg) (s : State) (h : a.toNat = d.addr.toNat) :
    exec (.rdb a) s = .next (s.respond (regRead d s).resp) := by
  rw [exec_rdb, read1_register d s h]

theorem exec_wrb_register {a : Addr} (d : DispReg) (v : Byte) (s : State) (h : a.toNat = d.addr.toNat) :
    exec (.wrb a v) s = .next ((regWrite d v s).2.respond (regWrite d v s).1.resp) := by
  rw [exec_wrb, write1_register d v s h]

/-- Settles O13: each range of R50 is a region, and READ1 there is the region's. -/
theorem byteReadsFollowTheirRegion : Obligations.ByteReadsFollowTheirRegion := by
  intro a s
  refine ⟨fun h hlen => exec_rdb_of_region (region_rom h) (regionRead_cell (regionCell_rom hlen)),
    fun h hlen => exec_rdb_of_region (region_rom h) (regionRead_rom_absent hlen),
    fun h1 h2 => exec_rdb_of_region (region_vram h1 h2) (regionRead_cell (regionCell_vram a s)),
    fun h1 h2 => exec_rdb_of_region (region_cram h1 h2) (regionRead_cram a s),
    fun h1 h2 => exec_rdb_of_region (region_wram h1 h2) (regionRead_cell (regionCell_wram a s)),
    fun h1 h2 => exec_rdb_of_region (region_oam h1 h2) (regionRead_cell (regionCell_oam a s)),
    fun h1 h2 => exec_rdb_of_region (region_unmapped_oam h1 h2) (regionRead_unmapped a s),
    ?sb, ?sc,
    fun h1 h2 => exec_rdb_of_region (region_unmapped_serial h1 h2) (regionRead_unmapped a s),
    exec_rdb_register .lcdc s, exec_rdb_register .stat s, exec_rdb_register .scy s, exec_rdb_register .scx s,
    exec_rdb_register .ly s, ?noRegister, exec_rdb_register .bgp s, exec_rdb_register .obp0 s, exec_rdb_register .obp1 s,
    exec_rdb_register .wy s, exec_rdb_register .wx s,
    fun h1 h2 => exec_rdb_of_region (region_unmapped_display h1 h2) (regionRead_unmapped a s),
    fun h => exec_rdb_of_region (region_zram h) (regionRead_cell (regionCell_zram a s))⟩
  case sb =>
    intro h
    obtain rfl : a = 0xFF01 := BitVec.eq_of_toNat_eq h
    exact exec_rdb_of_region (region_serial (by decide) (by decide)) (regionRead_serial 0xFF01 s)
  case sc =>
    intro h
    obtain rfl : a = 0xFF02 := BitVec.eq_of_toNat_eq h
    exact exec_rdb_of_region (region_serial (by decide) (by decide)) (regionRead_serial 0xFF02 s)
  case noRegister => exact Or.rec (exec_rdb_register .noneFF45 s) (exec_rdb_register .noneFF46 s)

/-- Settles O14: each range of R50 is a region, and WRITE1 there is the region's. -/
theorem byteWritesFollowTheirRegion : Obligations.ByteWritesFollowTheirRegion := by
  intro a v s
  refine ⟨fun h hlen => exec_wrb_of_region (region_rom h) (regionWrite_cell v (regionCell_rom hlen)),
    fun h hlen => exec_wrb_of_region (region_rom h) (regionWrite_rom_absent v hlen),
    fun h1 h2 => exec_wrb_of_region (region_vram h1 h2) (regionWrite_cell v (regionCell_vram a s)),
    fun h1 h2 => exec_wrb_of_region (region_cram h1 h2) (regionWrite_cram a v s),
    fun h1 h2 => exec_wrb_of_region (region_wram h1 h2) (regionWrite_cell v (regionCell_wram a s)),
    fun h1 h2 => exec_wrb_of_region (region_oam h1 h2) (regionWrite_cell v (regionCell_oam a s)),
    fun h1 h2 => exec_wrb_of_region (region_unmapped_oam h1 h2) (regionWrite_unmapped a v s),
    ?sb, ?sc,
    fun h1 h2 => exec_wrb_of_region (region_unmapped_serial h1 h2) (regionWrite_unmapped a v s),
    exec_wrb_register .lcdc v s, exec_wrb_register .stat v s, exec_wrb_register .scy v s, exec_wrb_register .scx v s,
    exec_wrb_register .ly v s, ?noRegister, exec_wrb_register .bgp v s, exec_wrb_register .obp0 v s,
    exec_wrb_register .obp1 v s, exec_wrb_register .wy v s, exec_wrb_register .wx v s,
    fun h1 h2 => exec_wrb_of_region (region_unmapped_display h1 h2) (regionWrite_unmapped a v s),
    fun h => exec_wrb_of_region (region_zram h) (regionWrite_cell v (regionCell_zram a s))⟩
  case sb =>
    intro h
    obtain rfl : a = 0xFF01 := BitVec.eq_of_toNat_eq h
    exact exec_wrb_of_region (region_serial (by decide) (by decide)) (regionWrite_serial 0xFF01 v s)
  case sc =>
    intro h
    obtain rfl : a = 0xFF02 := BitVec.eq_of_toNat_eq h
    exact exec_wrb_of_region (region_serial (by decide) (by decide)) (regionWrite_serial 0xFF02 v s)
  case noRegister => exact Or.rec (exec_wrb_register .noneFF45 v s) (exec_wrb_register .noneFF46 v s)

/-- Settles O22: the range is the region of cartridge RAM. -/
theorem cartridgeRamAlwaysErrs : Obligations.CartridgeRamAlwaysErrs := by
  intro a v s h1 h2
  have hregion : region a = .cram := region_cram h1 h2
  refine ⟨?_, ?_, exec_rdb_of_region hregion (regionRead_cram a s), exec_wrb_of_region hregion (regionWrite_cram a v s)⟩
  · rw [read1, hregion, regionRead_cram]
  · rw [write1, hregion, regionWrite_cram]

/-- Settles O23: the cell an address of video memory reaches depends on no other state. -/
theorem videoMemoryIsAlwaysAccessible : Obligations.VideoMemoryIsAlwaysAccessible := by
  intro a v s h1 h2
  have hcell : busCell a s = some ⟨.vram, vramIndex a⟩ := by rw [busCell, region_vram h1 h2, regionCell]
  exact ⟨read1_cell hcell, write1_cell v hcell, execRdb_cell hcell, execWrb_cell v hcell⟩

/-! ### Word accesses (R112, R113) -/

theorem lowByte_eq (w : Half) : lowByte w = BitVec.ofNat 8 (w.toNat % 256) := by
  apply BitVec.eq_of_toNat_eq
  simp [lowByte]

theorem highByte_eq (w : Half) : highByte w = BitVec.ofNat 8 (w.toNat / 256) := by
  apply BitVec.eq_of_toNat_eq
  simp [highByte, Nat.shiftRight_eq_div_pow]

/-- The two bytes of a word as its base-256 digits (R53). -/
theorem wordOf_eq (hi lo : Byte) : wordOf hi lo = BitVec.ofNat 16 ((zext hi).toNat * 256 + (zext lo).toNat) := by
  have hhi := hi.isLt
  have hlo := lo.isLt
  apply BitVec.eq_of_toNat_eq
  simp only [wordOf, zext, toNat_append_add, BitVec.toNat_setWidth, BitVec.toNat_ofNat]
  omega

theorem read1_respond (a : Addr) (s : State) (x : Resp) :
    read1 a (s.respond x) = ((read1 a s).1, (read1 a s).2.respond x) :=
  regionRead_respond (region a) a s x

theorem write1_respond (a : Addr) (v : Byte) (s : State) (x : Resp) :
    write1 a v (s.respond x) = ((write1 a v s).1, (write1 a v s).2.respond x) :=
  regionWrite_respond (region a) a v s x

@[simp] theorem State.respond_respond (s : State) (x y : Resp) : (s.respond x).respond y = s.respond y := rfl

/-- RDB right after another operation's response: the response is replaced. -/
theorem exec_rdb_respond (a : Addr) (s : State) (x : Resp) : exec (.rdb a) (s.respond x) = exec (.rdb a) s := by
  rw [exec_rdb, exec_rdb, read1_respond, State.respond_respond]

theorem exec_wrb_respond (a : Addr) (v : Byte) (s : State) (x : Resp) :
    exec (.wrb a v) (s.respond x) = exec (.wrb a v) s := by
  rw [exec_wrb, exec_wrb, write1_respond, State.respond_respond]

/-- Settles O15: the second RDB does not see the response of the first, so it makes the access that RDW makes second. -/
theorem wordReadIsTwoByteReads : Obligations.WordReadIsTwoByteReads := by
  intro a s
  refine ⟨_, exec_rdb a s, ?_⟩
  cases h0 : (read1 a s).1 with
  | error e => exact .inl ⟨e, rfl, by simp only [exec, execRdw, h0, ReadRes.resp, State.raise_eq]⟩
  | value st0 b0 =>
    refine .inr ⟨st0, zext b0, rfl, _, (exec_rdb_respond _ _ _).trans (exec_rdb _ _), ?_⟩
    cases h1 : (read1 (a + 1) (read1 a s).2).1 with
    | error e => exact .inl ⟨e, rfl, by simp only [exec, execRdw, nextAddr, h0, h1, ReadRes.resp, State.raise_eq]⟩
    | value st1 b1 =>
      refine .inr ⟨st1, zext b1, rfl, ?_⟩
      rw [← wordOf_eq]
      simp only [exec, execRdw, nextAddr, h0, h1]
      rfl

/-- Settles O16: the second WRB does not see the response of the first, so it makes the access that WRW makes second. -/
theorem wordWriteIsTwoByteWrites : Obligations.WordWriteIsTwoByteWrites := by
  intro a w s
  rw [← lowByte_eq, ← highByte_eq]
  refine ⟨_, exec_wrb a _ s, ?_⟩
  cases h0 : (write1 a (lowByte w) s).1 with
  | error e => exact .inl ⟨e, rfl, by simp only [exec, execWrw, h0, WriteRes.resp, State.raise_eq]⟩
  | done st0 =>
    refine .inr ⟨st0, rfl, _, (exec_wrb_respond _ _ _ _).trans (exec_wrb _ _ _), ?_⟩
    cases h1 : (write1 (a + 1) (highByte w) (write1 a (lowByte w) s).2).1 with
    | error e => exact .inl ⟨e, rfl, by simp only [exec, execWrw, nextAddr, h0, h1, WriteRes.resp, State.raise_eq]⟩
    | done st1 =>
      refine .inr ⟨st1, rfl, ?_⟩
      simp only [exec, execWrw, nextAddr, h0, h1]
      rfl

/-! ### What reads leave alone (R58, R115) -/

theorem read1_state (a : Addr) (s : State) : (read1 a s).2 = { s with serial := (read1 a s).2.serial } :=
  (regionRead_state (region a) a s).1

theorem read1_state_of_not_serial {a : Addr} (s : State) (h : region a ≠ .serial) : (read1 a s).2 = s :=
  (regionRead_state (region a) a s).2 h

theorem serialRead_reference (r : SerialReg) (sb sc : Byte) : (serialRead r (.reference sb sc)).2 = .reference sb sc := by
  cases r <;> rfl

/-- A read keeps the reference store (R58, D21). -/
theorem read1_serial_of_reference {a : Addr} {s : State} {sb sc : Byte} (h : s.serial = .reference sb sc) :
    (read1 a s).2.serial = .reference sb sc := by
  by_cases hregion : region a = .serial
  · rw [read1, hregion, regionRead_serial, h]
    exact serialRead_reference _ sb sc
  · rw [read1_state_of_not_serial s hregion, h]

/-- What READ1 at `a` and a response keep, RDB at `a` keeps. -/
theorem exec_rdb_keeps {P : State → Prop} {a : Addr} (hread : ∀ u, P u → P (read1 a u).2)
    (hresp : ∀ u x, P u → P (u.respond x)) {s t : State} (h : exec (.rdb a) s = .next t) (hs : P s) : P t := by
  rw [exec_rdb] at h
  cases h
  exact hresp _ _ (hread s hs)

/-- What READ1 at the two addresses of a word and a response keep, RDW keeps. -/
theorem exec_rdw_keeps {P : State → Prop} {a : Addr} (hlow : ∀ u, P u → P (read1 a u).2)
    (hhigh : ∀ u, P u → P (read1 (a + 1) u).2) (hresp : ∀ u x, P u → P (u.respond x)) {s t : State}
    (h : exec (.rdw a) s = .next t) (hs : P s) : P t := by
  simp only [exec, execRdw] at h
  split at h
  · cases h
    exact hresp _ _ (hlow s hs)
  · split at h <;> cases h
    all_goals exact hresp _ _ (hhigh _ (hlow s hs))

/-- Only the response and the serial stub differ. -/
def ReadFrame (s t : State) : Prop := t = { s with resp := t.resp, serial := t.serial }

theorem ReadFrame.respond {s t : State} (x : Resp) (h : ReadFrame s t) : ReadFrame s (t.respond x) :=
  congrArg (State.respond · x) h

theorem ReadFrame.read1 {s t : State} (a : Addr) (h : ReadFrame s t) : ReadFrame s (read1 a t).2 := by
  rw [read1_state a t]
  exact congrArg (fun u : State => { u with serial := (Machine.read1 a t).2.serial }) h

/-- Settles O19: READ1 and a response keep the frame, and the stub too at an address that is not its own. -/
theorem readsChangeOnlyTheResponse : Obligations.ReadsChangeOnlyTheResponse := by
  intro s t
  have hresp {y : SerialStub} (u : State) (x : Resp) (hu : u.serial = y) : (u.respond x).serial = y := hu
  have hread {a : Addr} (hregion : region a ≠ .serial) (u : State) (hu : u.serial = s.serial) :
      (read1 a u).2.serial = s.serial := by rwa [read1_state_of_not_serial u hregion]
  refine ⟨fun a h => ⟨?rdbFrame, fun hregion => ?rdbSerial⟩, fun a h => ⟨?rdwFrame, fun hlow hhigh => ?rdwSerial⟩,
    fun a sb sc href h => ?reference, fun h => ?ifr, fun h => ?reserved⟩
  case rdbFrame => exact exec_rdb_keeps (P := ReadFrame s) (fun u => .read1 a) (fun u x => .respond x) h rfl
  case rdbSerial => exact exec_rdb_keeps (P := fun u => u.serial = s.serial) (hread hregion) hresp h rfl
  case rdwFrame =>
    exact exec_rdw_keeps (P := ReadFrame s) (fun u => .read1 a) (fun u => .read1 (a + 1)) (fun u x => .respond x) h rfl
  case rdwSerial =>
    exact exec_rdw_keeps (P := fun u => u.serial = s.serial) (hread hlow) (hread hhigh) hresp h rfl
  case reference =>
    have hkeep (b : Addr) (u : State) (hu : u.serial = .reference sb sc) : (read1 b u).2.serial = .reference sb sc :=
      read1_serial_of_reference hu
    rw [href]
    rcases h with h | h
    · exact exec_rdb_keeps (P := fun u => u.serial = .reference sb sc) (hkeep a) hresp h href
    · exact exec_rdw_keeps (P := fun u => u.serial = .reference sb sc) (hkeep a) (hkeep (a + 1)) hresp h href
  case ifr | reserved =>
    cases h
    rfl

/-! ### What writes leave alone (R115) -/

/-- A register of the display region, with the map that is cached from it, is as before. -/
def SameRegister (d : DispReg) (s t : State) : Prop :=
  match d with
  | .lcdc => t.lcdc = s.lcdc
  | .stat => t.stat = s.stat
  | .scy => t.scy = s.scy
  | .scx => t.scx = s.scx
  | .ly => t.ly = s.ly
  | .noneFF45 | .noneFF46 => True
  | .bgp => t.bgp = s.bgp ∧ t.bgmap = s.bgmap
  | .obp0 => t.obp0 = s.obp0 ∧ t.obmap0 = s.obmap0
  | .obp1 => t.obp1 = s.obp1 ∧ t.obmap1 = s.obmap1
  | .wy => t.wy = s.wy
  | .wx => t.wx = s.wx

theorem SameRegister.trans {d : DispReg} {s t u : State} (h : SameRegister d s t) (h' : SameRegister d t u) :
    SameRegister d s u := by
  cases d with
  | bgp | obp0 | obp1 => exact ⟨h'.1.trans h.1, h'.2.trans h.2⟩
  | noneFF45 | noneFF46 => trivial
  | lcdc | stat | scy | scx | ly | wy | wx => exact Eq.trans h' h

theorem SameRegisters.sameRegister {s t : State} (h : SameRegisters s t) (hly : t.ly = s.ly) (d : DispReg) :
    SameRegister d s t := by
  cases d <;> simp [SameRegister, h, hly]

/-- A register write stores one register and its map, so it leaves each of the others: a goal per pair of registers. -/
theorem regWrite_sameRegister {d e : DispReg} (v : Byte) (s : State) (h : e ≠ d) : SameRegister d s (regWrite e v s).2 := by
  cases e <;> cases d <;> simp [SameRegister, regWrite] at h ⊢

/-- WRITE1 leaves every display register but the one at its address. -/
theorem write1_sameRegister {a : Addr} {d : DispReg} (v : Byte) (s : State) (h : a ≠ d.addr) :
    SameRegister d s (write1 a v s).2 := by
  rcases regionWrite_cases (region a) a v s with ⟨c, -, hw⟩ | ⟨-, w, hw⟩ | ⟨-, hw⟩ | ⟨-, e, he, hw⟩ <;> rw [write1, hw]
  · exact SameRegisters.sameRegister (by simp [SameRegisters]) (s.writeCell_ly c v) d
  · exact SameRegisters.sameRegister (by simp [SameRegisters]) rfl d
  · exact SameRegisters.sameRegister (by simp [SameRegisters]) rfl d
  · refine regWrite_sameRegister v s fun hed => h ?_
    rw [addr_of_dispReg he, hed]

/-- WRITE1 leaves the serial stub outside its region. -/
theorem write1_serial {a : Addr} (v : Byte) (s : State) (h : region a ≠ .serial) : (write1 a v s).2.serial = s.serial := by
  rcases regionWrite_cases (region a) a v s with ⟨c, -, hw⟩ | ⟨-, w, hw⟩ | ⟨hr, -⟩ | ⟨-, e, -, hw⟩
  · rw [write1, hw, State.writeCell_serial]
  · rw [write1, hw]
  · exact absurd hr h
  · obtain ⟨-, -, -, hserial, -⟩ := regWrite_frame e v s
    rw [write1, hw, hserial]

/-- What writes at the addresses in `W` leave as it was in `s` (R115). -/
structure WriteFrame (W : Addr → Prop) (s t : State) : Prop where
  cells : ∀ c, (∀ a, W a → busCell a s ≠ some c) → t.readCell c = s.readCell c
  serial : (∀ a, W a → region a ≠ .serial) → t.serial = s.serial
  registers : ∀ d : DispReg, ¬ W d.addr → SameRegister d s t
  engine : SameEngine s t
  channel : SameChannel s t
  platform : SamePlatform s t
  dresp : t.dresp = s.dresp
  byteRes : t.byteRes = s.byteRes

theorem WriteFrame.refl (W : Addr → Prop) (s : State) : WriteFrame W s s where
  cells _ _ := rfl
  serial _ := rfl
  registers d _ := SameRegisters.sameRegister (by simp [SameRegisters]) rfl d
  engine := by simp [SameEngine]
  channel := by simp [SameChannel]
  platform := by simp [SamePlatform]
  dresp := rfl
  byteRes := rfl

theorem WriteFrame.respond {W : Addr → Prop} {s t : State} (x : Resp) (h : WriteFrame W s t) : WriteFrame W s (t.respond x) :=
  { h with
    cells := fun c hc => (t.readCell_respond x c).trans (h.cells c hc)
    registers := fun d hd => (h.registers d hd).trans (SameRegisters.sameRegister (by simp [SameRegisters]) rfl d) }

theorem WriteFrame.write1 {W : Addr → Prop} {s t : State} {a : Addr} (v : Byte) (ha : W a) (h : WriteFrame W s t) :
    WriteFrame W s (write1 a v t).2 := by
  obtain ⟨hengine, hchannel, hplatform, -, hdresp, hbyteRes⟩ := regionWrite_frame (region a) a v t
  have hcell : busCell a t = busCell a s := busCell_congr h.platform.1 a
  exact {
    cells := fun c hc => (regionWrite_readCell (hcell.trans_ne (hc a ha))).trans (h.cells c hc)
    serial := fun hserial => (write1_serial v t (hserial a ha)).trans (h.serial hserial)
    registers := fun d hd => (h.registers d hd).trans (write1_sameRegister v t fun heq => hd (heq ▸ ha))
    engine := by simpa [Machine.write1, SameEngine, h.engine] using hengine
    channel := by simpa [Machine.write1, SameChannel, h.channel] using hchannel
    platform := by simpa [Machine.write1, SamePlatform, h.platform] using hplatform
    dresp := hdresp.trans h.dresp
    byteRes := hbyteRes.trans h.byteRes }

theorem exec_wrb_writeFrame {a : Addr} {v : Byte} {s t : State} (h : exec (.wrb a v) s = .next t) :
    WriteFrame (a = ·) s t := by
  rw [exec_wrb] at h
  cases h
  exact ((WriteFrame.refl _ s).write1 v rfl).respond _

theorem exec_wrw_writeFrame {a : Addr} {w : Half} {s t : State} (h : exec (.wrw a w) s = .next t) :
    WriteFrame (fun b => a = b ∨ a + 1 = b) s t := by
  have hlow : WriteFrame (fun b => a = b ∨ a + 1 = b) s (write1 a (lowByte w) s).2 := (WriteFrame.refl _ s).write1 _ (.inl rfl)
  simp only [exec, execWrw] at h
  split at h
  · cases h
    exact hlow.respond _
  · split at h <;> cases h
    all_goals exact (hlow.write1 _ (.inr rfl)).respond _

theorem serialRows_exact : ∀ r ∈ addrRows,
    r.region = .serial → r.mask = 0xFFFF ∧ (r.pattern = 0xFF01 ∨ r.pattern = 0xFF02) := by
  decide

/-- Only FF01 and FF02 are serial addresses (R50). -/
theorem region_eq_serial {a : Addr} (h : region a = .serial) : a = 0xFF01 ∨ a = 0xFF02 := by
  obtain ⟨r, -, hfound, hregion⟩ := everyAddressIsInExactlyOneBlock a
  have hblock := List.find?_some (p := fun q : AddrRow => inBlock a q.mask q.pattern) hfound
  obtain ⟨hmask, hpattern⟩ := serialRows_exact r (List.mem_of_find?_eq_some hfound) (hregion.trans h)
  rw [hmask] at hblock
  rwa [eq_of_inBlock_exact hblock]

/-- Settles O17: the frame of one WRITE1. -/
theorem byteWriteChangesOnlyWhatItAddresses : Obligations.ByteWriteChangesOnlyWhatItAddresses := by
  intro a v s t h
  have f := exec_wrb_writeFrame h
  refine ⟨fun c hc => f.cells c ?cell, fun hsb hsc => f.serial ?serial, f.registers .lcdc, f.registers .stat,
    f.registers .scy, f.registers .scx, f.registers .bgp, f.registers .obp0, f.registers .obp1, f.registers .wy,
    f.registers .wx, f.engine, f.channel, f.platform, f.dresp, f.byteRes⟩
  case cell =>
    rintro b rfl
    exact hc
  case serial =>
    rintro b rfl hregion
    exact (region_eq_serial hregion).elim hsb hsc

/-- Settles O18: the frame of two WRITE1s; ROM_LEN stays, so the second reaches the cell it would have reached first. -/
theorem wordWriteChangesOnlyWhatItAddresses : Obligations.WordWriteChangesOnlyWhatItAddresses := by
  intro a w s t h
  have f := exec_wrw_writeFrame h
  have hreg (d : DispReg) (hlow : a ≠ d.addr) (hhigh : a + 1 ≠ d.addr) : SameRegister d s t :=
    f.registers d (not_or.2 ⟨hlow, hhigh⟩)
  refine ⟨fun c hlow hhigh => f.cells c ?cell, fun hlow hhigh => f.serial ?serial, hreg .lcdc, hreg .stat, hreg .scy,
    hreg .scx, hreg .bgp, hreg .obp0, hreg .obp1, hreg .wy, hreg .wx, f.engine, f.channel, f.platform, f.dresp, f.byteRes⟩
  case cell =>
    rintro b (rfl | rfl)
    · exact hlow
    · exact hhigh
  case serial =>
    rintro b (rfl | rfl)
    · exact hlow
    · exact hhigh

/-! ### The address rows (R116 to R124) -/

theorem regionAccess_read {r : Region} {a : Addr} {s t : State} {x : ReadRes} (h : regionRead r a s = (x, t)) :
    regionAccess r a .read s = .next (t.byteDone (.read x)) := by
  rw [regionAccess, h]

theorem regionAccess_write {r : Region} {a : Addr} {v : Byte} {s t : State} {x : WriteRes}
    (h : regionWrite r a v s = (x, t)) : regionAccess r a (.write v) s = .next (t.byteDone (.wrote x)) := by
  rw [regionAccess, h]

/-- Settles O30: a row of a store's region reaches the cell of that store at its masked address. -/
theorem storeRowsAccessTheirCell : Obligations.StoreRowsAccessTheirCell := by
  intro a v s
  have hread {r : Region} {c : Cell} (hc : regionCell r a s = some c) := regionAccess_read (regionRead_cell hc)
  have hwrite {r : Region} {c : Cell} (hc : regionCell r a s = some c) := regionAccess_write (regionWrite_cell v hc)
  have hvram := regionCell_vram a s
  have hwram := regionCell_wram a s
  have hoam := regionCell_oam a s
  have hzram := regionCell_zram a s
  exact ⟨fun h => ⟨hread (regionCell_rom h), hwrite (regionCell_rom h)⟩, hread hvram, hwrite hvram, hread hwram, hwrite hwram,
    hread hwram, hwrite hwram, hread hwram, hwrite hwram, hread hwram, hwrite hwram, hread hwram, hwrite hwram, hread hoam,
    hwrite hoam, hread hoam, hwrite hoam, hread hzram, hwrite hzram⟩

/-- Settles O31: the accesses of these regions reach no cell, and change nothing. -/
theorem rowsWithoutStorageStoreNothing : Obligations.RowsWithoutStorageStoreNothing := by
  intro a v s
  have hread (b : Addr) := regionAccess_read (regionRead_unmapped b s)
  have hwrite (b : Addr) := regionAccess_write (regionWrite_unmapped b v s)
  exact ⟨regionAccess_read (regionRead_cram a s), regionAccess_write (regionWrite_cram a v s),
    fun h => ⟨regionAccess_read (regionRead_rom_absent h), regionAccess_write (regionWrite_rom_absent v h)⟩,
    hread a, hwrite a, hread a, hwrite a, hread _, hwrite _, hread _, hwrite _, hread a, hwrite a, hread a, hwrite a,
    hread a, hwrite a, hread a, hwrite a, hread a, hwrite a, hread a, hwrite a, hread a, hwrite a⟩

/-- A byte access of the display region is the register access at its address (R122). -/
theorem regionAccess_display {a : Addr} {d : DispReg} (acc : ByteAccess) (s : State) (h : dispReg a = some d) :
    regionAccess .display a acc s = regAccess d acc s := by
  cases acc with
  | read => exact regionAccess_read (regionRead_display s h)
  | write v => exact regionAccess_write (regionWrite_display v s h)

/-- The row found for a register address does the access of the register that the address selects (R88, R154). -/
theorem exec_findRegRow {a : Addr} {r : RegRow} (h : findRegRow a = some r) :
    ∃ d, dispReg a = some d ∧ ∀ acc s, exec (r.op acc) s = regAccess d acc s := by
  have hall : ∀ q ∈ regRows, ∃ d, dispReg q.addr = some d ∧ ∀ acc s, exec (q.op acc) s = regAccess d acc s := by
    simp only [regRows, List.forall_mem_cons]
    exact ⟨⟨.lcdc, rfl, fun _ _ => rfl⟩, ⟨.stat, rfl, fun _ _ => rfl⟩, ⟨.scy, rfl, fun _ _ => rfl⟩,
      ⟨.scx, rfl, fun _ _ => rfl⟩, ⟨.ly, rfl, fun _ _ => rfl⟩, ⟨.noneFF45, rfl, fun _ _ => rfl⟩,
      ⟨.noneFF46, rfl, fun _ _ => rfl⟩, ⟨.bgp, rfl, fun _ _ => rfl⟩, ⟨.obp0, rfl, fun _ _ => rfl⟩,
      ⟨.obp1, rfl, fun _ _ => rfl⟩, ⟨.wy, rfl, fun _ _ => rfl⟩, ⟨.wx, rfl, fun _ _ => rfl⟩,
      fun _ hq => absurd hq List.not_mem_nil⟩
  have haddr : a = r.addr := eq_of_beq (List.find?_some (p := fun q : RegRow => a == q.addr) h)
  rw [haddr]
  exact hall r (List.mem_of_find?_eq_some h)

/-- Settles O32: the serial rows make the stub's access, and the display rows that of the register at their address. -/
theorem serialAndDisplayRowsForward : Obligations.SerialAndDisplayRowsForward := by
  refine ⟨fun v sb sc s => ⟨regionAccess_read (regionRead_serial _ s), regionAccess_read (regionRead_serial _ s),
    regionAccess_write (regionWrite_serial _ v s), regionAccess_write (regionWrite_serial _ v s), rfl, rfl, rfl, rfl⟩,
    fun a acc s r hrow => ?_⟩
  obtain ⟨d, hd, hreg⟩ := exec_findRegRow hrow
  obtain ⟨t, ht⟩ := regionAccess_next .display a acc s
  have hsame : exec (r.op acc) s = .next t := by rw [hreg, ← regionAccess_display acc s hd, ht]
  exact ⟨fun _ => ⟨t, ht, hsame⟩, fun _ => ⟨t, ht, hsame⟩⟩

end Sys2Proof.Machine

/-! ## Proofs: the display registers and the interrupt flag byte (41_display_registers.md) -/

namespace Sys2Proof.Machine

/-! ### The register rows (R88, R154) -/

/-- The register row at the address of a register of the display region. -/
def DispReg.row : DispReg → ByteAccess → Instr
  | .lcdc => .regFF40
  | .stat => .regFF41
  | .scy => .regFF42
  | .scx => .regFF43
  | .ly => .regFF44
  | .noneFF45 => .regFF45
  | .noneFF46 => .regFF46
  | .bgp => .regFF47
  | .obp0 => .regFF48
  | .obp1 => .regFF49
  | .wy => .regFF4A
  | .wx => .regFF4B

theorem findRegRow_addr (d : DispReg) : findRegRow d.addr = some ⟨d.addr, d.row⟩ := by
  cases d <;> rfl

theorem exec_row (d : DispReg) (acc : ByteAccess) (s : State) : exec (d.row acc) s = regAccess d acc s := by
  obtain ⟨e, he, hrow⟩ := exec_findRegRow (findRegRow_addr d)
  obtain rfl : d = e := Option.some.inj ((dispReg_addr d).symm.trans he)
  exact hrow acc s

theorem exec_row_read (d : DispReg) (s : State) : exec (d.row .read) s = .next (s.byteDone (.read (regRead d s))) :=
  exec_row d .read s

theorem exec_row_write (d : DispReg) (v : Byte) (s : State) :
    exec (d.row (.write v)) s = .next ((regWrite d v s).2.byteDone (.wrote (regWrite d v s).1)) :=
  exec_row d (.write v) s

/-! ### One rule per register (R140 to R151) -/

/-- Settles O24: a row and a bus access both make the register's own access, which for these six reads and stores the byte. -/
theorem rawRegistersStoreEveryBit : Obligations.RawRegistersStoreEveryBit := by
  intro v s
  have hrowRead (d : DispReg) := exec_row_read d s
  have hrowWrite (d : DispReg) := exec_row_write d v s
  have hbusRead (d : DispReg) := exec_rdb_register d s rfl
  have hbusWrite (d : DispReg) := exec_wrb_register d v s rfl
  exact ⟨hrowRead .lcdc, hrowRead .stat, hrowRead .scy, hrowRead .scx, hrowRead .wy, hrowRead .wx,
    hrowWrite .lcdc, hrowWrite .stat, hrowWrite .scy, hrowWrite .scx, hrowWrite .wy, hrowWrite .wx,
    hbusWrite .lcdc, hbusWrite .stat, hbusWrite .scy, hbusWrite .scx, hbusWrite .wy, hbusWrite .wx,
    hbusRead .lcdc, hbusRead .stat, hbusRead .scy, hbusRead .scx, hbusRead .wy, hbusRead .wx⟩

theorem ly_le_of_inv {s : State} (h : s.Inv) : s.ly.toNat ≤ 153 := by
  obtain ⟨-, -, -, hly, -⟩ := h
  exact Nat.le_of_lt_succ hly

theorem toNat_zext (b : Byte) : (zext b).toNat = b.toNat := BitVec.toNat_setWidth_of_le (by decide)

/-- Settles O25: REGWRITE of LY is the identity on the state, and the bound is the sequencer's invariant. -/
theorem currentLineIgnoresWrites : Obligations.CurrentLineIgnoresWrites := by
  intro v s
  have hread : exec (.rdb 0xFF44) s = .next (s.respond (.done .ok (zext s.ly))) := exec_rdb_register .ly s rfl
  refine ⟨hread, exec_wrb_register .ly v s rfl, exec_row_read .ly s, exec_row_write .ly v s, fun hinv => ⟨zext s.ly, hread, ?_⟩⟩
  rw [toNat_zext]
  exact ly_le_of_inv hinv

/-- Settles O26: REGWRITE of BGP stores the byte and its decode together. -/
theorem backgroundPaletteWriteRecomputesItsMap : Obligations.BackgroundPaletteWriteRecomputesItsMap := fun v s =>
  ⟨exec_rdb_register .bgp s rfl, exec_wrb_register .bgp v s rfl, exec_row_read .bgp s, exec_row_write .bgp v s⟩

/-- Settles O27: REGWRITE of an object palette stores the byte and its decode together, each in its own register and map. -/
theorem objectPaletteWritesRecomputeTheirMaps : Obligations.ObjectPaletteWritesRecomputeTheirMaps := fun v s =>
  ⟨exec_row_read .obp0 s, exec_row_read .obp1 s, exec_row_write .obp0 v s, exec_row_write .obp1 v s,
    exec_wrb_register .obp0 v s rfl, exec_wrb_register .obp1 v s rfl⟩

/-- Settles O28: the two addresses select no register, so REGREAD and REGWRITE answer the error over the same state. -/
theorem absentRegistersAnswerBadreg : Obligations.AbsentRegistersAnswerBadreg := fun v s =>
  ⟨exec_rdb_register .noneFF45 s rfl, exec_rdb_register .noneFF46 s rfl, exec_wrb_register .noneFF45 v s rfl,
    exec_wrb_register .noneFF46 v s rfl, exec_row_read .noneFF45 s, exec_row_read .noneFF46 s,
    exec_row_write .noneFF45 v s, exec_row_write .noneFF46 v s⟩

/-! ### The interrupt flag byte and the reserved code (R152, R153, R92) -/

theorem exec_ifr (s : State) : exec .ifr s = .next (s.respond (.done .ok (zext s.ifl))) := rfl

theorem exec_ifw (v : Byte) (s : State) :
    exec (.ifw v) s = .next (({ s with ifl := v } : State).respond (.done .ok 0)) := rfl

theorem exec_reservedOp7 (s : State) : exec .reservedOp7 s = .next (s.raise .badop) := rfl

/-- Settles O29: each of the three is one response, IFW's after the store of the whole byte. -/
theorem sidebandAndReservedOperations : Obligations.SidebandAndReservedOperations := fun v s =>
  ⟨exec_ifr s, exec_ifw v s, exec_reservedOp7 s⟩

end Sys2Proof.Machine

/-! ## Proofs: cycle advance and the scanline state machine (42_cycle_advance.md) -/

namespace Sys2Proof.Machine

/-- The state with the cycles of an ADV added to CLK (R160). -/
def State.load (s : State) (n : Nat) : State := { s with clk := s.clk + n }

theorem exec_adv_enabled (n : Nat) {s : State} (h : s.lcdc.getLsbD 7 = true) :
    exec (.adv n) s = .next (runLines false (s.load n)) :=
  execAdv_enabled n h

/-! ### ADV of less than a line (R160, R161, R169) -/

theorem exec_adv_short {n : Nat} {s : State} (h : s.lcdc.getLsbD 7 = true) (hn : s.clk + n < 114) :
    exec (.adv n) s = .next { s with clk := s.clk + n, resp := some (.done .ok 0) } := by
  rw [exec_adv_enabled n h, runLines_done false hn]
  rfl

/-- Settles O34: the display is off, or the loop ends before its first line step. -/
theorem advanceShortOfALineMakesNoLineStep : Obligations.AdvanceShortOfALineMakesNoLineStep := by
  refine fun n s => ⟨execAdv_disabled n, fun hclk => ?_, exec_adv_short⟩
  cases hlcd : s.lcdc.getLsbD 7
  · exact execAdv_disabled 0 hlcd
  · exact exec_adv_short hlcd hclk

/-! ### ADV of one line (R162, R191, R192) -/

theorem handOff_connected_eq {s : State} (h : s.connected = true) :
    handOff s = { s with queue := s.queue ++ [s.fb], events := s.events ++ [.deliver s.fb], fb := [] } :=
  if_pos h

theorem handOff_disconnected_eq {s : State} (h : s.connected = false) :
    handOff s = { s with events := s.events ++ [.drop], fb := [] } :=
  if_neg (Bool.eq_false_iff.1 h)

section
variable {s : State} (dropped : Bool) (hlow : 114 ≤ s.clk) (hhigh : s.clk < 228)
include hlow hhigh

/-- With one line of cycles the loop makes one line step and then ends, or holds at its hand-off. -/
theorem runLines_oneLine :
    runLines dropped s =
      if (s.ly.toNat + 1) % 154 = 144 then
        if canHandOff s then advDone (dropped || !s.connected) (handOff (lineStep s)) else advHold dropped (lineStep s)
      else advDone dropped (lineStep s) := by
  have hclk : (lineStep s).clk < 114 := by
    rw [lineStep_clk]
    omega
  rw [runLines_line dropped hlow, nextLine_toNat, runLines_done dropped hclk, runLines_done _ (by rwa [handOff_clk])]

theorem runLines_oneLine_visible (hly : (s.ly.toNat + 1) % 154 ≤ 143) :
    runLines dropped s =
      advDone dropped (renderLine { s with clk := s.clk - 114, ly := nextLine s.ly } ((s.ly.toNat + 1) % 154)) := by
  rw [runLines_oneLine dropped hlow hhigh, if_neg (by omega), lineStep_visible (by omega)]

theorem runLines_oneLine_blank (hly : 145 ≤ (s.ly.toNat + 1) % 154) :
    runLines dropped s = advDone dropped { s with clk := s.clk - 114, ly := nextLine s.ly } := by
  rw [runLines_oneLine dropped hlow hhigh, if_neg (by omega), lineStep_blank hly]

theorem runLines_oneLine_deliver (hly : (s.ly.toNat + 1) % 154 = 144) (hconn : s.connected = true) (hqueue : s.queue = []) :
    runLines dropped s = advDone dropped { s with
      clk := s.clk - 114, ly := nextLine s.ly, ifl := setVblank s.ifl, queue := [s.fb],
      events := s.events ++ [.deliver s.fb], fb := [] } := by
  rw [runLines_oneLine dropped hlow hhigh, if_pos hly, if_pos ((canHandOff_iff s).2 (.inl hqueue)),
    handOff_connected_eq ((lineStep_connected s).trans hconn), lineStep_vblank hly]
  simp only [hqueue, hconn, List.nil_append, Bool.not_true, Bool.or_false]

theorem runLines_oneLine_drop (hly : (s.ly.toNat + 1) % 154 = 144) (hconn : s.connected = false) :
    runLines dropped s = advDone true { s with
      clk := s.clk - 114, ly := nextLine s.ly, ifl := setVblank s.ifl, events := s.events ++ [.drop], fb := [] } := by
  rw [runLines_oneLine dropped hlow hhigh, if_pos hly, if_pos ((canHandOff_iff s).2 (.inr hconn)),
    handOff_disconnected_eq ((lineStep_connected s).trans hconn), lineStep_vblank hly]
  simp only [hconn, Bool.not_false, Bool.or_true]

theorem runLines_oneLine_hold (hly : (s.ly.toNat + 1) % 154 = 144) (hconn : s.connected = true) (hqueue : s.queue ≠ []) :
    runLines dropped s =
      advHold dropped { s with clk := s.clk - 114, ly := nextLine s.ly, ifl := setVblank s.ifl } := by
  have hcan : ¬ canHandOff s = true := by
    rw [canHandOff_iff, hconn]
    exact not_or.2 ⟨hqueue, Bool.true_eq_false_eq_False⟩
  rw [runLines_oneLine dropped hlow hhigh, if_pos hly, if_neg hcan, lineStep_vblank hly]

end

/-- Settles O35: one line of cycles is one pass of the loop's body, in each of its outcomes. -/
theorem oneLineOfCyclesIsOneLineStep : Obligations.OneLineOfCyclesIsOneLineStep := by
  intro n s hlcd _ hlow hhigh ly s1
  rw [exec_adv_enabled n hlcd]
  exact ⟨fun hly => congrArg _ (runLines_oneLine_visible false hlow hhigh hly),
    fun hly => congrArg _ (runLines_oneLine_blank false hlow hhigh hly),
    fun hly hconn hqueue => congrArg _ (runLines_oneLine_deliver false hlow hhigh hly hconn hqueue),
    fun hly hconn hqueue => congrArg _ (runLines_oneLine_hold false hlow hhigh hly hconn hqueue),
    fun hly hconn => congrArg _ (runLines_oneLine_drop false hlow hhigh hly hconn)⟩

/-! ### The line steps of the loop, counted (R160, R167, R168) -/

/-- `LineRun k d s e t`: from `s`, with `dropped` at `d`, the loop of ADV makes `k` line steps, none of which holds, and stands at
`t` with `dropped` at `e`. -/
inductive LineRun : Nat → Bool → State → Bool → State → Prop where
  | stop (d : Bool) (s : State) : LineRun 0 d s d s
  | line {k : Nat} {d e : Bool} {s t : State} (hclk : 114 ≤ s.clk) (hly : (nextLine s.ly).toNat ≠ 144)
      (h : LineRun k d (lineStep s) e t) : LineRun (k + 1) d s e t
  | entry {k : Nat} {d e : Bool} {s t : State} (hclk : 114 ≤ s.clk) (hly : (nextLine s.ly).toNat = 144)
      (hcan : canHandOff s = true) (h : LineRun k (d || !s.connected) (handOff (lineStep s)) e t) : LineRun (k + 1) d s e t

section
variable {k : Nat} {d e : Bool} {s t : State}

theorem LineRun.runLines_eq (h : LineRun k d s e t) : runLines d s = runLines e t := by
  induction h with
  | stop => rfl
  | line hclk hly _ ih => rw [runLines_line _ hclk, if_neg hly, ih]
  | entry hclk hly hcan _ ih => rw [runLines_line _ hclk, if_pos hly, if_pos hcan, ih]

theorem LineRun.clk_add (h : LineRun k d s e t) : t.clk + 114 * k = s.clk := by
  induction h with
  | stop => rfl
  | line hclk _ _ ih =>
    rw [lineStep_clk] at ih
    omega
  | entry hclk _ _ _ ih =>
    rw [handOff_clk, lineStep_clk] at ih
    omega

theorem LineRun.ly_toNat (h : LineRun k d s e t) (hs : s.ly.toNat < 154) : t.ly.toNat = (s.ly.toNat + k) % 154 := by
  induction h with
  | stop => exact (Nat.mod_eq_of_lt hs).symm
  | line _ _ _ ih =>
    rw [ih (by rw [lineStep_ly]; exact nextLine_lt _), lineStep_ly, nextLine_toNat]
    omega
  | entry _ _ _ _ ih =>
    rw [ih (by rw [handOff_ly, lineStep_ly]; exact nextLine_lt _), handOff_ly, lineStep_ly, nextLine_toNat]
    omega

theorem LineRun.hold_eq (h : LineRun k d s e t) : t.hold = s.hold := by
  induction h with
  | stop => rfl
  | line _ _ _ ih => rw [ih, lineStep_hold]
  | entry _ _ _ _ ih => rw [ih, handOff_hold, lineStep_hold]

theorem LineRun.events_length (h : LineRun k d s e t) :
    t.events.length = s.events.length + vblankEntries s.ly.toNat k := by
  induction h with
  | stop => rfl
  | line _ hly _ ih => rw [ih, lineStep_events, lineStep_ly, vblankEntries_succ, if_neg hly, Nat.zero_add]
  | entry _ hly _ _ ih =>
    rw [ih, handOff_events, handOff_ly, lineStep_events, lineStep_ly, vblankEntries_succ, if_pos hly, List.length_append,
      List.length_singleton, Nat.add_assoc]

theorem LineRun.ifl_eq (h : LineRun k d s e t) :
    t.ifl = if vblankEntries s.ly.toNat k = 0 then s.ifl else setVblank s.ifl := by
  induction h with
  | stop => rfl
  | line _ hly _ ih => rw [ih, lineStep_ifl, lineStep_ly, vblankEntries_succ, if_neg hly, if_neg hly, Nat.zero_add]
  | entry _ hly _ _ ih =>
    rw [ih, handOff_ifl, handOff_ly, lineStep_ifl, lineStep_ly, vblankEntries_succ, if_pos hly, if_pos hly,
      setVblank_setVblank, ite_self, if_neg (by omega)]

/-- After all the lines of CLK (R167). -/
theorem LineRun.finished (h : LineRun (s.clk / 114) d s e t) (hs : s.ly.toNat < 154) :
    t.clk = s.clk % 114 ∧ t.ly.toNat = (s.ly.toNat + s.clk / 114) % 154 := by
  have hclk := h.clk_add
  exact ⟨by omega, h.ly_toNat hs⟩

/-- One line step more, onto line 144 (R162, R192). -/
theorem LineRun.landed (h : LineRun k d s e t) (hs : s.ly.toNat < 154) (hland : (nextLine t.ly).toNat = 144) :
    (lineStep t).clk = s.clk - 114 * (k + 1) ∧ (lineStep t).ly.toNat = 144 ∧ (s.ly.toNat + (k + 1)) % 154 = 144 := by
  have hclk := h.clk_add
  have hly := h.ly_toNat hs
  refine ⟨?_, by rw [lineStep_ly, hland], ?_⟩
  · rw [lineStep_clk]
    omega
  · rw [nextLine_toNat] at hland
    omega

/-- How the loop ends: after all its line steps, or held at the hand-off of one of them, with those before it done. -/
theorem runLines_outcome (d : Bool) (s : State) :
    (∃ e t, LineRun (s.clk / 114) d s e t ∧ runLines d s = advDone e t) ∨
    (∃ k e t, LineRun k d s e t ∧ k < s.clk / 114 ∧ (nextLine t.ly).toNat = 144 ∧ canHandOff t = false ∧
      runLines d s = advHold e (lineStep t)) := by
  obtain ⟨k, hk⟩ : ∃ k, s.clk / 114 = k := ⟨_, rfl⟩
  rw [hk]
  induction k generalizing d s with
  | zero => exact .inl ⟨d, s, .stop d s, runLines_done d (by omega)⟩
  | succ k ih =>
    have hclk : 114 ≤ s.clk := by omega
    rw [runLines_line d hclk]
    by_cases hly : (nextLine s.ly).toNat = 144
    · rw [if_pos hly]
      cases hcan : canHandOff s with
      | false => exact .inr ⟨0, d, s, .stop d s, k.succ_pos, hly, hcan, rfl⟩
      | true =>
        rw [if_pos rfl]
        rcases ih (d || !s.connected) (handOff (lineStep s)) (by rw [handOff_clk, lineStep_clk]; omega) with
          ⟨e, t, hrun, heq⟩ | ⟨j, e, t, hrun, hj, hend⟩
        · exact .inl ⟨e, t, .entry hclk hly hcan hrun, heq⟩
        · exact .inr ⟨j + 1, e, t, .entry hclk hly hcan hrun, Nat.succ_lt_succ hj, hend⟩
    · rw [if_neg hly]
      rcases ih d (lineStep s) (by rw [lineStep_clk]; omega) with ⟨e, t, hrun, heq⟩ | ⟨j, e, t, hrun, hj, hend⟩
      · exact .inl ⟨e, t, .line hclk hly hrun, heq⟩
      · exact .inr ⟨j + 1, e, t, .line hclk hly hrun, Nat.succ_lt_succ hj, hend⟩

end

/-- Settles O36: the counts of a run of line steps, all of them or those up to the one that holds. -/
theorem linesAdvanceByCyclesOverOneHundredFourteen : Obligations.LinesAdvanceByCyclesOverOneHundredFourteen := by
  intro n s hlcd hhold hly
  refine ⟨_, exec_adv_enabled n hlcd, ?_⟩
  rcases runLines_outcome false (s.load n) with ⟨e, t, hrun, heq⟩ | ⟨k, e, t, hrun, hk, hland, -, heq⟩
  · rw [heq]
    exact ⟨fun _ => hrun.finished hly, fun hheld => absurd (hrun.hold_eq.trans hhold) hheld⟩
  · rw [heq]
    exact ⟨nofun, fun _ => ⟨k + 1, hk, hrun.landed hly hland⟩⟩

/-! ### An ADV that completes: its hand-offs and IF (R164, R168) -/

/-- An ADV that does not hold has made all its line steps. -/
theorem exec_adv_completed {n : Nat} {s t : State} (hlcd : s.lcdc.getLsbD 7 = true) (h : exec (.adv n) s = .next t)
    (ht : t.hold = none) : ∃ e r, LineRun ((s.clk + n) / 114) false (s.load n) e r ∧ t = advDone e r := by
  rw [exec_adv_enabled n hlcd] at h
  obtain rfl : runLines false (s.load n) = t := Host.Outcome.next.inj h
  rcases runLines_outcome false (s.load n) with hdone | ⟨k, e, r, -, -, -, -, heq⟩
  · exact hdone
  · rw [heq] at ht
    cases ht

/-- A frame's worth of line steps lands on line 144 at most once: two landings are 154 steps apart (R168). -/
theorem vblankEntries_le_one (ly : Nat) {k : Nat} (hk : k ≤ 154) : vblankEntries ly k ≤ 1 := by
  have hnodup : ((List.range k).filter fun j => decide ((ly + (j + 1)) % 154 = 144)).Nodup := List.nodup_range.filter _
  refine (List.toFinset_card_of_nodup hnodup).symm.trans_le (Finset.card_le_one.2 fun i hi j hj => ?_)
  simp only [List.mem_toFinset, List.mem_filter, List.mem_range, decide_eq_true_eq] at hi hj
  omega

/-- Settles O38: each line step of the run that lands on line 144 is one hand-off. -/
theorem oneHandOffForEveryEntryOfLine144 : Obligations.OneHandOffForEveryEntryOfLine144 := by
  intro n s t hlcd _ _ h ht
  obtain ⟨e, r, hrun, rfl⟩ := exec_adv_completed hlcd h ht
  exact ⟨hrun.events_length, fun hclk hn => vblankEntries_le_one _ (by omega)⟩

/-- Settles O39: each line step of the run sets bit 0 of IF exactly if it lands on line 144. -/
theorem verticalBlankFlagIsSetOnEntryOnly : Obligations.VerticalBlankFlagIsSetOnEntryOnly := by
  intro n s t hlcd _ _ h ht
  obtain ⟨e, r, hrun, rfl⟩ := exec_adv_completed hlcd h ht
  exact hrun.ifl_eq

/-! ### The split of the cycles does not matter (R160, R167) -/

theorem State.load_load (s : State) (m n : Nat) : (s.load m).load n = s.load (m + n) := by
  simp only [State.load, Nat.add_assoc]

/-- The renderer does not read CLK. -/
theorem renderLine_load (s : State) (y n : Nat) : renderLine (s.load n) y = (renderLine s y).load n := by
  have hrow : rowBytes (s.load n) y = rowBytes s y := by
    unfold rowBytes
    simp only [pixel_congr (s := s) (t := s.load n) rfl rfl rfl rfl rfl rfl]
  simp only [renderLine, hrow]
  rfl

/-- Cycles added to CLK before a line step or after it are the same, if CLK holds the line. -/
theorem lineStep_load {s : State} (h : 114 ≤ s.clk) (n : Nat) : lineStep (s.load n) = (lineStep s).load n := by
  have hclk : s.clk + n - 114 = s.clk - 114 + n := Nat.sub_add_comm h
  rcases lt_trichotomy ((s.ly.toNat + 1) % 154) 144 with hly | hly | hly
  · rw [lineStep_visible hly, lineStep_visible (s := s.load n) hly]
    refine Eq.trans ?_ (renderLine_load _ _ n)
    simp only [State.load, hclk]
  · rw [lineStep_vblank hly, lineStep_vblank (s := s.load n) hly]
    simp only [State.load, hclk]
  · rw [lineStep_blank hly, lineStep_blank (s := s.load n) hly]
    simp only [State.load, hclk]

theorem handOff_load (s : State) (n : Nat) : handOff (s.load n) = (handOff s).load n := by
  cases hconn : s.connected
  · rw [handOff_disconnected_eq hconn, handOff_disconnected_eq (s := s.load n) hconn]
    rfl
  · rw [handOff_connected_eq hconn, handOff_connected_eq (s := s.load n) hconn]
    rfl

/-- The line steps of a run are made in the same way with more cycles on CLK. -/
theorem LineRun.load {k : Nat} {d e : Bool} {s t : State} (h : LineRun k d s e t) (n : Nat) :
    LineRun k d (s.load n) e (t.load n) := by
  induction h with
  | stop d s => exact .stop d _
  | line hclk hly _ ih => exact .line (hclk.trans (Nat.le_add_right _ n)) hly (lineStep_load hclk n ▸ ih)
  | entry hclk hly hcan _ ih =>
    rw [← handOff_load, ← lineStep_load hclk] at ih
    exact .entry (hclk.trans (Nat.le_add_right _ n)) hly hcan ih

theorem lineStep_respond (s : State) (x : Resp) : lineStep (s.respond x) = (lineStep s).respond x := by
  rcases lt_trichotomy ((s.ly.toNat + 1) % 154) 144 with hly | hly | hly
  · rw [lineStep_visible hly, lineStep_visible (s := s.respond x) hly]
    rfl
  · rw [lineStep_vblank hly, lineStep_vblank (s := s.respond x) hly]
    rfl
  · rw [lineStep_blank hly, lineStep_blank (s := s.respond x) hly]
    rfl

theorem handOff_respond (s : State) (x : Resp) : handOff (s.respond x) = (handOff s).respond x := by
  cases hconn : s.connected
  · rw [handOff_disconnected_eq hconn, handOff_disconnected_eq (s := s.respond x) hconn]
    rfl
  · rw [handOff_connected_eq hconn, handOff_connected_eq (s := s.respond x) hconn]
    rfl

/-- ADV does not read the last response, and replaces it in each of its ends. -/
theorem runLines_respond (d : Bool) (s : State) (x : Resp) : runLines d (s.respond x) = runLines d s := by
  obtain ⟨k, hk⟩ : ∃ k, s.clk / 114 = k := ⟨_, rfl⟩
  induction k generalizing d s with
  | zero =>
    have hclk : s.clk < 114 := by omega
    rw [runLines_done d hclk, runLines_done d (s := s.respond x) hclk]
    rfl
  | succ k ih =>
    have hclk : 114 ≤ s.clk := by omega
    have hline := ih d (lineStep s) (by rw [lineStep_clk]; omega)
    have hhand := ih (d || !s.connected) (handOff (lineStep s)) (by rw [handOff_clk, lineStep_clk]; omega)
    rw [runLines_line d hclk, runLines_line d (s := s.respond x) hclk, lineStep_respond, handOff_respond]
    exact if_congr Iff.rfl (if_congr Iff.rfl hhand rfl) hline

theorem advDone_resp_frameDropped (d : Bool) (s : State) : (advDone d s).resp = some (.done .frameDropped 0) ↔ d = true := by
  cases d <;> simp [advStatus]

theorem advDone_resp_ok (d : Bool) (s : State) : (advDone d s).resp = some (.done .ok 0) ↔ d = false := by
  cases d <;> simp [advStatus]

theorem hold_of_runLines_done {d e : Bool} {s t : State} (h : runLines d s = advDone e t) : t.hold = s.hold := by
  rcases runLines_outcome d s with ⟨e', t', hrun, heq⟩ | ⟨k, e', t', -, -, -, -, heq⟩
  · exact (congrArg State.hold (h.symm.trans heq)).trans hrun.hold_eq
  · cases congrArg State.resp (h.symm.trans heq)

/-- Settles O37: the sum makes the line steps of the first ADV and stands, but for the response and the drop, where the second one
starts. -/
theorem splittingTheCyclesChangesNothing : Obligations.SplittingTheCyclesChangesNothing := by
  intro m n s t u hlcd hhold hm ht hn
  have hlcd' : t.lcdc.getLsbD 7 = true := by
    obtain ⟨-, ⟨hlcdc, -⟩, -⟩ := execAdv_advFrame hm
    rwa [hlcdc]
  obtain ⟨d, r, hrun, rfl⟩ := exec_adv_completed hlcd hm ht
  have hsecond : runLines false (r.load n) = u := by
    rw [exec_adv_enabled n hlcd'] at hn
    exact (runLines_respond false (r.load n) _).symm.trans (Host.Outcome.next.inj hn)
  have hsum : runLines false (s.load (m + n)) = runLines d (r.load n) := by
    rw [← State.load_load, (hrun.load n).runLines_eq]
  refine ⟨_, exec_adv_enabled _ hlcd, ?_⟩
  rw [hsum, ← hsecond, advDone_resp_frameDropped, advDone_resp_ok]
  rcases runLines_dropped d false (r.load n) with ⟨f, x, hu, hw⟩ | ⟨f, x, hu, hw⟩ <;> rw [Bool.or_false] at hw
  · have hx : x.hold = none := (hold_of_runLines_done hu).trans ht
    rw [hu, hw, advDone_resp_frameDropped, advDone_resp_frameDropped, advDone_resp_ok, advDone_resp_ok]
    exact ⟨rfl, fun _ => ⟨hx, Bool.or_eq_true_iff, Bool.or_eq_false_iff⟩, fun h hh => nomatch hx.symm.trans hh⟩
  · rw [hu, hw]
    refine ⟨rfl, nofun, fun h hh => ⟨rfl, rfl, ⟨d || f⟩, rfl, ?_⟩⟩
    obtain rfl : (⟨f⟩ : HeldAdv) = h := Option.some.inj hh
    exact Bool.or_eq_true_iff

/-! ### A lifted ADV (R191, R192) -/

/-- A held ADV whose hold is lifted hands off and goes on at a step with nothing presented, with an entry `proceed`, or with a
processor-port request that waits (log 3, 4). -/
theorem step_lifted {s : State} {h : HeldAdv} (hhold : s.hold = some h) (hphase : s.phase = .run) (hcan : canHandOff s = true)
    (hinputs : s.inputs = [] ∨ (∃ rest, s.inputs = .proceed :: rest) ∨
      ∃ r rest, s.inputs = .request r :: rest ∧ onDisplayPort r = false) :
    ∃ rest, step s = .next (runLines (h.dropped || !s.connected) (handOff { s with hold := none, inputs := rest })) := by
  have hproceed (rest : List Input) : proceed { s with inputs := rest } =
      runLines (h.dropped || !s.connected) (handOff { s with hold := none, inputs := rest }) :=
    proceed_lifted (s := { s with inputs := rest }) hhold hcan
  simp only [← hproceed]
  rcases hinputs with hnil | ⟨rest, hentry⟩ | ⟨r, rest, hrequest, hport⟩
  · have hfetch : fetch s = .quiet (proceed s) := by simp only [fetch, hnil]
    exact ⟨s.inputs, by simp only [step, hfetch]⟩
  · have hfetch : fetch s = .quiet (proceed { s with inputs := rest }) := by simp only [fetch, hentry]
    exact ⟨rest, by simp only [step, hfetch]⟩
  · have hfetch : fetch s = .quiet (proceed s) := by
      rw [fetch_held hrequest hphase hport (hhold ▸ Option.some_ne_none h), if_pos hcan]
    exact ⟨s.inputs, by simp only [step, hfetch]⟩

theorem setVblank_of_pending {v : Byte} (h : v.getLsbD 0 = true) : setVblank v = v := by
  ext i hi
  simp only [setVblank, BitVec.getElem_or]
  cases i with
  | zero => simp_all
  | succ i => simp

/-- With IF bit 0 set, a run of line steps leaves IF as it is (R164). -/
theorem LineRun.ifl_of_pending {k : Nat} {d e : Bool} {s t : State} (h : LineRun k d s e t) (hs : s.ifl.getLsbD 0 = true) :
    t.ifl = s.ifl := by
  rw [h.ifl_eq, setVblank_of_pending hs, ite_self]

/-- Settles O46: after its own hand-off the lifted ADV is a run of line steps, all of them or those up to the next hold. -/
theorem liftedAdvanceCountsItsLines : Obligations.LiftedAdvanceCountsItsLines := by
  intro s h hinv hhold hinputs hlifted
  obtain ⟨-, -, -, hly, -, hheld⟩ := hinv
  obtain ⟨-, hpending, -, hphase⟩ := hheld (hhold ▸ Option.some_ne_none h)
  obtain ⟨rest, hstep⟩ := step_lifted hhold hphase ((canHandOff_iff s).2 hlifted) hinputs
  refine ⟨_, hstep, ?_⟩
  generalize hafter : handOff { s with hold := none, inputs := rest } = l
  have hlclk : l.clk = s.clk := by rw [← hafter, handOff_clk]
  have hlly : l.ly = s.ly := by rw [← hafter, handOff_ly]
  have hlifl : l.ifl = s.ifl := by rw [← hafter, handOff_ifl]
  have hlhold : l.hold = none := by rw [← hafter, handOff_hold]
  have hlevents : l.events.length = s.events.length + 1 := by
    rw [← hafter, handOff_events, List.length_append, List.length_singleton]
  rw [← hlclk, ← hlly, ← hlifl, ← hlevents]
  replace hpending : l.ifl.getLsbD 0 = true := hlifl ▸ hpending
  replace hly : l.ly.toNat < 154 := hlly ▸ hly
  rcases runLines_outcome (h.dropped || !s.connected) l with ⟨e, t, hrun, heq⟩ | ⟨k, e, t, hrun, hk, hland, -, heq⟩
  · obtain ⟨hclk, hline⟩ := hrun.finished hly
    have hifl : t.ifl = l.ifl := hrun.ifl_of_pending hpending
    rw [heq]
    exact ⟨hifl, hifl ▸ hpending, fun _ => ⟨hclk, hline, hrun.events_length⟩,
      fun hne => absurd (hrun.hold_eq.trans hlhold) hne⟩
  · obtain ⟨hclk, h144, hline⟩ := hrun.landed hly hland
    have hifl : (lineStep t).ifl = l.ifl := by
      rw [lineStep_ifl, if_pos hland, hrun.ifl_of_pending hpending, setVblank_of_pending hpending]
    have hevents : (lineStep t).events.length = l.events.length + vblankEntries l.ly.toNat k := by
      rw [lineStep_events, hrun.events_length]
    rw [heq]
    exact ⟨hifl, hifl ▸ hpending, nofun, fun _ => ⟨k + 1, k.succ_pos, hk, hclk, h144, hline, hevents⟩⟩

/-! ### The rows that line steps render (R163, R199, R242) -/

/-- One of the `k` line steps from line `ly` lands on line `y`. -/
def LandsOn (ly k y : Nat) : Prop := ∃ j < k, (ly + (j + 1)) % 154 = y

theorem landsOn_succ (ly : Byte) (k y : Nat) :
    LandsOn ly.toNat (k + 1) y ↔ (nextLine ly).toNat = y ∨ LandsOn (nextLine ly).toNat k y := by
  rw [nextLine_toNat]
  constructor
  · rintro ⟨j, hj, hy⟩
    cases j with
    | zero => exact .inl hy
    | succ j => exact .inr ⟨j, Nat.lt_of_succ_lt_succ hj, by omega⟩
  · rintro (hy | ⟨j, hj, hy⟩)
    · exact ⟨0, k.succ_pos, hy⟩
    · exact ⟨j + 1, Nat.succ_lt_succ hj, by omega⟩

theorem lineStep_fb_pixel (s : State) {x y c : Nat} (hx : x < Config.fbWidth) (hy : y < Config.fbHeight)
    (hc : c < Config.channels) :
    (lineStep s).fb.read (fbIndex x y c) =
      if (nextLine s.ly).toNat = y then pixel s x y else s.fb.read (fbIndex x y c) := by
  rw [nextLine_toNat]
  rcases Nat.lt_or_ge ((s.ly.toNat + 1) % 154) 144 with hvisible | hblank
  · rw [lineStep_visible hvisible, renderLine_fb_pixel _ _ hx hc]
    by_cases hrow : (s.ly.toNat + 1) % 154 = y
    · rw [if_pos hrow, if_pos hrow.symm, hrow]
      exact pixel_congr rfl rfl rfl rfl rfl rfl x y
    · rw [if_neg hrow, if_neg (Ne.symm hrow)]
  · have hrow : (s.ly.toNat + 1) % 154 ≠ y := (hy.trans_le hblank).ne'
    rw [lineStep_fb, nextLine_toNat, if_neg (Nat.not_lt.2 hblank), if_neg hrow]

/-- What `k` line steps from `s`, none of them onto line 144, leave of the renderer: FB has the pixels of the rows landed on, and
nothing that PIXEL reads and no part of the channel has changed. -/
structure Rendered (s : State) (k : Nat) (t : State) : Prop where
  queue : t.queue = s.queue
  connected : t.connected = s.connected
  samePixel : ∀ x y, pixel t x y = pixel s x y
  landed : ∀ x < Config.fbWidth, ∀ y < Config.fbHeight, ∀ c < Config.channels, LandsOn s.ly.toNat k y →
    t.fb.read (fbIndex x y c) = pixel s x y
  other : ∀ x < Config.fbWidth, ∀ y < Config.fbHeight, ∀ c < Config.channels, ¬ LandsOn s.ly.toNat k y →
    t.fb.read (fbIndex x y c) = s.fb.read (fbIndex x y c)

theorem Rendered.stop (s : State) : Rendered s 0 s where
  queue := rfl
  connected := rfl
  samePixel _ _ := rfl
  landed := by
    rintro _ _ _ _ _ _ ⟨j, hj, -⟩
    exact absurd hj j.not_lt_zero
  other _ _ _ _ _ _ _ := rfl

theorem lineStep_pixel (s : State) (x y : Nat) : pixel (lineStep s) x y = pixel s x y := by
  refine pixel_congr ?_ ?_ (lineStep_scy s) (lineStep_scx s) (lineStep_vram s) (lineStep_bgmap s) x y
  · simp only [tileSelUnsigned, lineStep_lcdc]
  · simp only [mapSelHigh, lineStep_lcdc]

theorem Rendered.line {s t : State} {k : Nat} (h : Rendered (lineStep s) k t) : Rendered s (k + 1) t where
  queue := h.queue.trans (lineStep_queue s)
  connected := h.connected.trans (lineStep_connected s)
  samePixel x y := (h.samePixel x y).trans (lineStep_pixel s x y)
  landed x hx y hy c hc hland := by
    by_cases hlater : LandsOn (nextLine s.ly).toNat k y
    · rw [h.landed x hx y hy c hc (by rwa [lineStep_ly]), lineStep_pixel]
    · have hrow : (nextLine s.ly).toNat = y := ((landsOn_succ _ _ _).1 hland).resolve_right hlater
      rw [h.other x hx y hy c hc (by rwa [lineStep_ly]), lineStep_fb_pixel s hx hy hc, if_pos hrow]
  other x hx y hy c hc hland := by
    obtain ⟨hrow, hlater⟩ := not_or.1 (mt (landsOn_succ _ _ _).2 hland)
    rw [h.other x hx y hy c hc (by rwa [lineStep_ly]), lineStep_fb_pixel s hx hy hc, if_neg hrow]

/-- With the cycles for `k` line steps that do not land on line 144, the loop makes them and renders their rows. -/
theorem exists_rendered {k : Nat} (d : Bool) {s : State} (hclk : 114 * k ≤ s.clk) (h144 : ¬ LandsOn s.ly.toNat k 144) :
    ∃ t, LineRun k d s d t ∧ Rendered s k t := by
  induction k generalizing s with
  | zero => exact ⟨s, .stop d s, .stop s⟩
  | succ k ih =>
    obtain ⟨hnext, hlater⟩ := not_or.1 (mt (landsOn_succ _ _ _).2 h144)
    obtain ⟨t, hrun, hrendered⟩ := ih (s := lineStep s) (by rw [lineStep_clk]; omega) (by rwa [lineStep_ly])
    exact ⟨t, .line (by omega) hnext hrun, hrendered.line⟩

/-- Settles O59: 143 line steps render rows 1 to 143 into the fresh FB, and the one after them hands it off. -/
theorem firstFrameLeavesRowZeroUnrendered : Obligations.FirstFrameLeavesRowZeroUnrendered := by
  intro s hlcd _ hclk hly hfb hconn hqueue
  have hclk' : (s.load 16416).clk = 16416 := by simp only [State.load, hclk]
  have hly' : (s.load 16416).ly.toNat = 0 := congrArg BitVec.toNat hly
  have hlands (y : Nat) : LandsOn (s.load 16416).ly.toNat 143 y ↔ 0 < y ∧ y ≤ 143 := by
    rw [hly']
    constructor
    · rintro ⟨j, hj, hy⟩
      omega
    · rintro ⟨hlow, hhigh⟩
      exact ⟨y - 1, by omega, by omega⟩
  obtain ⟨t, hrun, hrendered⟩ := exists_rendered (k := 143) (s := s.load 16416) false (by omega) (by rw [hlands]; omega)
  have hspent := hrun.clk_add
  have htclk : t.clk = 114 := by omega
  have htly : t.ly.toNat = 143 := by rw [hrun.ly_toNat (by omega), hly']
  have hlast := runLines_oneLine_deliver (s := t) false (by omega) (by omega) (by omega)
    (hrendered.connected.trans hconn) (hrendered.queue.trans hqueue)
  refine ⟨_, t.fb, (exec_adv_enabled _ hlcd).trans (congrArg _ (hrun.runLines_eq.trans hlast)), rfl, ?_, ?_,
    fun x hx y hy c hc => ?_⟩
  · exact BitVec.eq_of_toNat_eq ((nextLine_toNat _).trans (by rw [htly]; rfl))
  · exact Nat.sub_eq_zero_of_le htclk.le
  · split
    next hrow =>
      have hfill : (s.load 16416).fb.read (fbIndex x y c) = Config.fbFill := congrArg (Memory.read · (fbIndex x y c)) hfb
      exact (hrendered.other x hx y hy c hc (by rw [hlands]; omega)).trans hfill
    next hrow =>
      exact (hrendered.landed x hx y hy c hc (by rw [hlands]; omega)).trans (pixel_congr rfl rfl rfl rfl rfl rfl x y)

end Sys2Proof.Machine

/-! ## Proofs: the renderer and the palette resolver (43_scanline_render.md) -/

namespace Sys2Proof.Machine

/-! ### What ADV reads (R185, R188) -/

theorem rowBytes_congr {s t : State} {y : Nat} (h : ∀ x, pixel t x y = pixel s x y) : rowBytes t y = rowBytes s y := by
  simp only [rowBytes, h]

theorem handOff_pixel (s : State) (x y : Nat) : pixel (handOff s) x y = pixel s x y := by
  refine pixel_congr ?_ ?_ (handOff_scy s) (handOff_scx s) (handOff_vram s) (handOff_bgmap s) x y
  · simp only [tileSelUnsigned, handOff_lcdc]
  · simp only [mapSelHigh, handOff_lcdc]

/-- All that the loop of ADV reads is the same in two states: the engine, the channel, and PIXEL of the background (R188). -/
structure SameAdvReads (s t : State) : Prop where
  engine : SameEngine s t
  channel : SameChannel s t
  samePixel : ∀ x y, pixel t x y = pixel s x y

theorem SameAdvReads.load {s t : State} (h : SameAdvReads s t) (n : Nat) : SameAdvReads (s.load n) (t.load n) := by
  obtain ⟨⟨hly, hclk, hifl, hfb, hevents, hhold⟩, hchannel, hpixel⟩ := h
  have hloaded (u : State) (x y : Nat) : pixel (u.load n) x y = pixel u x y := pixel_congr rfl rfl rfl rfl rfl rfl x y
  refine ⟨⟨hly, congrArg (· + n) hclk, hifl, hfb, hevents, hhold⟩, hchannel, fun x y => ?_⟩
  rw [hloaded, hloaded, hpixel]

/-- The line rendered is the same, since PIXEL and FB are (R163, R188). -/
theorem SameAdvReads.line {s t : State} (h : SameAdvReads s t) : SameAdvReads (lineStep s) (lineStep t) := by
  obtain ⟨⟨hly, hclk, hifl, hfb, hevents, hhold⟩, ⟨hqueue, hconn⟩, hpixel⟩ := h
  refine ⟨⟨?_, ?_, ?_, ?_, ?_, ?_⟩, ⟨?_, ?_⟩, fun x y => ?_⟩
  · rw [lineStep_ly, lineStep_ly, hly]
  · rw [lineStep_clk, lineStep_clk, hclk]
  · rw [lineStep_ifl, lineStep_ifl, hly, hifl]
  · rw [lineStep_fb, lineStep_fb, hly, hfb, rowBytes_congr fun x => hpixel x _]
  · rw [lineStep_events, lineStep_events, hevents]
  · rw [lineStep_hold, lineStep_hold, hhold]
  · rw [lineStep_queue, lineStep_queue, hqueue]
  · rw [lineStep_connected, lineStep_connected, hconn]
  · rw [lineStep_pixel, lineStep_pixel, hpixel]

/-- The frame handed off is the same, since FB is (R191). -/
theorem SameAdvReads.handedOff {s t : State} (h : SameAdvReads s t) : SameAdvReads (handOff s) (handOff t) := by
  obtain ⟨⟨hly, hclk, hifl, hfb, hevents, hhold⟩, ⟨hqueue, hconn⟩, hpixel⟩ := h
  refine ⟨⟨?_, ?_, ?_, ?_, ?_, ?_⟩, ⟨?_, ?_⟩, fun x y => ?_⟩
  · rw [handOff_ly, handOff_ly, hly]
  · rw [handOff_clk, handOff_clk, hclk]
  · rw [handOff_ifl, handOff_ifl, hifl]
  · rw [handOff_fb, handOff_fb]
  · rw [handOff_events, handOff_events, hevents, hconn, hfb]
  · rw [handOff_hold, handOff_hold, hhold]
  · rw [handOff_queue, handOff_queue, hconn, hqueue, hfb]
  · rw [handOff_connected, handOff_connected, hconn]
  · rw [handOff_pixel, handOff_pixel, hpixel]

theorem SameAdvReads.canHandOff_eq {s t : State} (h : SameAdvReads s t) : canHandOff t = canHandOff s := by
  obtain ⟨-, ⟨hqueue, hconn⟩, -⟩ := h
  rw [canHandOff, canHandOff, hqueue, hconn]

/-- The loop ends in the same way in two states that agree on what it reads, and leaves the same engine, channel and response. -/
theorem SameAdvReads.runLines_eq {s t : State} (d : Bool) (h : SameAdvReads s t) :
    SameEngine (runLines d s) (runLines d t) ∧ SameChannel (runLines d s) (runLines d t) ∧
      (runLines d t).resp = (runLines d s).resp := by
  obtain ⟨k, hk⟩ : ∃ k, s.clk / 114 = k := ⟨_, rfl⟩
  induction k generalizing d s t with
  | zero =>
    have hs : s.clk < 114 := by omega
    have ⟨⟨_, hclk, _⟩, _, _⟩ := h
    rw [runLines_done d hs, runLines_done d (hclk.trans_lt hs)]
    exact ⟨h.engine, h.channel, rfl⟩
  | succ k ih =>
    have hs : 114 ≤ s.clk := by omega
    have ⟨⟨hly, hclk, _⟩, ⟨_, hconn⟩, _⟩ := h
    rw [runLines_line d hs, runLines_line d (hs.trans_eq hclk.symm), hly, hconn, h.canHandOff_eq]
    split
    · split
      · exact ih _ h.line.handedOff (by rw [handOff_clk, lineStep_clk]; omega)
      · obtain ⟨⟨hly, hclk, hifl, hfb, hevents, -⟩, hchannel, -⟩ := h.line
        exact ⟨⟨hly, hclk, hifl, hfb, hevents, rfl⟩, hchannel, rfl⟩
    · exact ih d h.line (by rw [lineStep_clk]; omega)

/-- Settles O42: the state that ADV reads is what the two agree on, and each line step and hand-off keeps it so. -/
theorem advanceReadsNoSpriteOrWindowState : Obligations.AdvanceReadsNoSpriteOrWindowState := by
  intro n s t hengine hchannel h7 h4 h3 hscy hscx hvram hmap
  cases hlcd : s.lcdc.getLsbD 7 with
  | false => exact ⟨_, _, execAdv_disabled n hlcd, execAdv_disabled n (h7.trans hlcd), hengine, hchannel, rfl⟩
  | true =>
    have hreads : SameAdvReads s t := ⟨hengine, hchannel, pixel_congr h4 h3 hscy hscx hvram hmap⟩
    exact ⟨_, _, exec_adv_enabled n hlcd, exec_adv_enabled n (h7.trans hlcd), (hreads.load n).runLines_eq false⟩

/-! ### The bytes of a rendered row (R175, R187) -/

/-- Settles O54: the row's pixels by `renderLine_fb_pixel`, the rest of FB by `renderLine_fb_read`. -/
theorem renderLineWritesExactlyItsRow : Obligations.RenderLineWritesExactlyItsRow := by
  refine fun s y _ => ⟨fun x hx c hc => ?_, fun i hi => ?_, rfl, fun t hlcdc hscy hscx hvram hmap x => ?_⟩
  · exact (renderLine_fb_pixel s y hx hc).trans (if_pos rfl)
  · rw [renderLine_fb_read, if_neg (by omega)]
  · exact pixel_congr (congrArg (·.getLsbD 4) hlcdc) (congrArg (·.getLsbD 3) hlcdc) hscy hscx hvram hmap x y

/-! ### Tile addresses and colors (R178 to R182) -/

/-- A tile index taken as signed, from the middle of its range, is the index with bit 7 flipped (R179). -/
theorem toInt_add_toNat_eq_xor : ∀ idx : Byte, (idx.toInt + 128).toNat = idx.toNat ^^^ 0x80 := by decide

theorem tileDataAddr_unsigned (idx : Byte) : tileDataAddr true idx = 0x8000 + idx.toNat * 16 := rfl

theorem tileDataAddr_signed_eq_xor (idx : Byte) : tileDataAddr false idx = 0x8800 + (idx.toNat ^^^ 0x80) * 16 := by
  rw [← toInt_add_toNat_eq_xor]
  rfl

theorem tileDataAddr_signed (idx : Byte) :
    tileDataAddr false idx = if idx.toNat < 128 then 0x9000 + idx.toNat * 16 else 0x8000 + idx.toNat * 16 := by
  have haddr : tileDataAddr false idx = 0x8800 + (idx.toInt + 128).toNat * 16 := rfl
  rw [haddr, BitVec.toInt_eq_toNat_cond]
  split <;> split <;> omega

/-- Settles O56: both modes at every index, and so at the fixed points. -/
theorem tileDataAddressesFollowBothModes : Obligations.TileDataAddressesFollowBothModes :=
  ⟨tileDataAddr_unsigned, tileDataAddr_signed, tileDataAddr_unsigned 0, tileDataAddr_unsigned 255, tileDataAddr_signed 0,
    tileDataAddr_signed 128⟩

/-- The renderer's read at an address given as a number: only its lowest 13 bits count (R186). -/
theorem vramByte_ofNat (s : State) (a : Nat) : vramByte s (BitVec.ofNat 16 a) = s.vram.read (a % 0x2000) := by
  have hindex : vramIndex (BitVec.ofNat 16 a) = a % 0x2000 := by
    rw [vramIndex_eq, BitVec.toNat_ofNat]
    omega
  rw [← hindex]
  rfl

/-- The color id is the number with the planes' bits as its digits (R181). -/
theorem colorId_eq_ofNat (p1 p2 : Byte) (cin : Nat) :
    colorId p1 p2 cin = BitVec.ofNat 2 ((p1.getLsbD (7 - cin)).toNat + 2 * (p2.getLsbD (7 - cin)).toNat) := by
  unfold colorId
  cases p1.getLsbD (7 - cin) <;> cases p2.getLsbD (7 - cin) <;> rfl

/-- Settles O55: the steps R176 to R182 of PIXEL, each by its own equation. -/
theorem pixelIsTheOneExpression : Obligations.PixelIsTheOneExpression := by
  intro s x y _ _ row col idx t p1 p2 b
  have haddr : tileDataAddr (tileSelUnsigned s) (vramByte s (BitVec.ofNat 16 (tileMapAddr (mapSelHigh s) row col))) = t := by
    have hidx : (vramByte s (BitVec.ofNat 16 (tileMapAddr (mapSelHigh s) row col))).toNat = idx := by
      rw [vramByte_ofNat]
      rfl
    cases hsel : s.lcdc.getLsbD 4 with
    | true => simp only [tileSelUnsigned, hsel, tileDataAddr_unsigned, hidx, t, if_true]
    | false => simp only [tileSelUnsigned, hsel, tileDataAddr_signed_eq_xor, hidx, t, Bool.false_eq_true, if_false]
  have hp1 : vramByte s (BitVec.ofNat 16 (t + row % 8 * 2)) = p1 := vramByte_ofNat s _
  have hp2 : vramByte s (BitVec.ofNat 16 (t + row % 8 * 2 + 1)) = p2 := vramByte_ofNat s _
  rw [← colorId_eq_ofNat, ← hp1, ← hp2, ← haddr]
  rfl

/-! ### The palette (R183, R184) -/

/-- The intensity of a color id is the shade of its group. -/
theorem palDecode_get_eq_shade (p : Byte) (id : Nat) (h : id < 4) :
    (palDecode p).get (BitVec.ofNat 2 id) = shade (p.extractLsb' (2 * id) 2) := by
  interval_cases id <;> rfl

theorem extractLsb'_group (p : Byte) (id : Nat) : p.extractLsb' (2 * id) 2 = BitVec.ofNat 2 (p.toNat / 4 ^ id) := by
  rw [BitVec.extractLsb', Nat.shiftRight_eq_div_pow, pow_mul]
  rfl

/-- Settles O57: the table by its four values, and each group by its place in the byte. -/
theorem paletteDecodeMapsEachGroup : Obligations.PaletteDecodeMapsEachGroup := by
  refine ⟨⟨rfl, rfl, rfl, rfl⟩, fun p id hid => ?_⟩
  rw [palDecode_get_eq_shade p id hid, extractLsb'_group]

end Sys2Proof.Machine

/-! ## Proofs: the frame hand-off and the display port (44_frame_handoff.md) -/

namespace Sys2Proof.Machine

/-! ### TAKE and DISC (R195, R196) -/

theorem exec_take_disconnected {s : State} (h : s.connected = false) : exec .take s = .next (s.dispRespond .closed) :=
  if_neg (Bool.eq_false_iff.1 h)

theorem exec_take_empty {s : State} (h : s.connected = true) (hqueue : s.queue = []) :
    exec .take s = .next (s.dispRespond .empty) := by
  simp only [exec, execTake, h, hqueue, if_true]

theorem exec_take_frame {s : State} {f : Frame} {q : List Frame} (h : s.connected = true) (hqueue : s.queue = f :: q) :
    exec .take s = .next (({ s with queue := q } : State).dispRespond (.frame f)) := by
  simp only [exec, execTake, h, hqueue, if_true]

theorem exec_disc_connected {s : State} (h : s.connected = true) :
    exec .disc s = .next (({ s with connected := false, queue := [] } : State).dispRespond .done) :=
  if_pos h

theorem exec_disc_disconnected {s : State} (h : s.connected = false) : exec .disc s = .next (s.dispRespond .closed) :=
  if_neg (Bool.eq_false_iff.1 h)

/-- Settles O47: one rule per case of TAKE and of DISC. -/
theorem displayPortOperations : Obligations.DisplayPortOperations := fun _ =>
  ⟨exec_take_disconnected, exec_take_empty, fun _ _ => exec_take_frame, exec_disc_connected, exec_disc_disconnected⟩

/-! ### The steps that run no operation (R192, R201; log 3, 4) -/

theorem step_idle {s : State} (h : s.inputs = []) : step s = .next (proceed s) := by
  simp only [step, fetch, h]

theorem step_entry_proceed {s : State} {rest : List Input} (h : s.inputs = .proceed :: rest) :
    step s = .next (proceed { s with inputs := rest }) := by
  simp only [step, fetch, h]

theorem step_waiting_request {s : State} {r : Request} {rest : List Input} (h : s.inputs = .request r :: rest)
    (hphase : s.phase = .run) (hport : onDisplayPort r = false) (hhold : s.hold ≠ none) (hcan : canHandOff s = true) :
    step s = .next (proceed s) := by
  simp only [step, fetch_held h hphase hport hhold, if_pos hcan]

theorem canHandOff_of_full {s : State} (hconn : s.connected = true) (hqueue : s.queue ≠ []) : canHandOff s = false := by
  rw [Bool.eq_false_iff, ne_eq, canHandOff_iff, hconn]
  exact not_or.2 ⟨hqueue, Bool.true_eq_false_eq_False⟩

/-- Settles O44: at a full channel `proceed` changes nothing, and TAKE and DISC leave the hold to a later step. -/
theorem heldAdvanceWaitsForTakeOrDisc : Obligations.HeldAdvanceWaitsForTakeOrDisc := by
  intro s _ hconn hqueue
  have hcan : canHandOff s = false := canHandOff_of_full hconn hqueue
  refine ⟨fun h => ?idle, fun rest h => ?entry, fun hone => ?take, _, exec_disc_connected hconn, rfl, rfl⟩
  case idle => rw [step_idle h, proceed_held hcan]
  case entry => rw [step_entry_proceed h, proceed_held (s := { s with inputs := rest }) hcan]
  case take =>
    obtain ⟨f, hf⟩ := List.length_eq_one_iff.1 hone
    exact ⟨_, exec_take_frame hconn hf, rfl, rfl⟩

/-! ### Line steps that hand nothing off, and those without a receiver (R168, R192, R193) -/

section
variable {k : Nat} {d e : Bool} {s t : State}

/-- Line steps that do not land on line 144 leave the channel, the history, IF and `dropped`. -/
theorem LineRun.eq_of_not_landsOn (h : LineRun k d s e t) (h144 : ¬ LandsOn s.ly.toNat k 144) :
    e = d ∧ SameChannel s t ∧ t.events = s.events ∧ t.ifl = s.ifl := by
  induction h with
  | stop => exact ⟨rfl, ⟨rfl, rfl⟩, rfl, rfl⟩
  | @line k d e s t _ hly _ ih =>
    obtain ⟨hd, ⟨hqueue, hconn⟩, hevents, hifl⟩ := ih fun hlater =>
      h144 ((landsOn_succ _ _ _).2 (.inr (by rwa [lineStep_ly] at hlater)))
    rw [lineStep_queue] at hqueue
    rw [lineStep_connected] at hconn
    rw [lineStep_events] at hevents
    rw [lineStep_ifl, if_neg hly] at hifl
    exact ⟨hd, ⟨hqueue, hconn⟩, hevents, hifl⟩
  | entry _ hly => exact absurd ((landsOn_succ _ _ _).2 (.inl hly)) h144

/-- At a full channel no line step of a run lands on line 144: it would hold there. -/
theorem LineRun.not_landsOn_of_full (h : LineRun k d s e t) (hcan : canHandOff s = false) : ¬ LandsOn s.ly.toNat k 144 := by
  induction h with
  | stop =>
    rintro ⟨j, hj, -⟩
    exact j.not_lt_zero hj
  | @line k d e s t _ hly _ ih =>
    have hcan' : canHandOff (lineStep s) = false := by
      rwa [canHandOff, lineStep_queue, lineStep_connected]
    rw [landsOn_succ]
    exact not_or.2 ⟨hly, by simpa only [lineStep_ly] using ih hcan'⟩
  | entry _ _ hroom => exact nomatch hcan.symm.trans hroom

/-- Without a receiver each landing on line 144 drops its frame, and the channel stays as it is (R193). -/
theorem LineRun.drops_of_disconnected (h : LineRun k d s e t) (hconn : s.connected = false) :
    SameChannel s t ∧ t.events = s.events ++ List.replicate (vblankEntries s.ly.toNat k) .drop ∧
      e = if vblankEntries s.ly.toNat k = 0 then d else true := by
  induction h with
  | stop => exact ⟨⟨rfl, rfl⟩, (List.append_nil _).symm, rfl⟩
  | line _ hly _ ih =>
    rw [vblankEntries_succ, if_neg hly, Nat.zero_add]
    simpa only [SameChannel, lineStep_queue, lineStep_connected, lineStep_events, lineStep_ly] using
      ih (by rwa [lineStep_connected])
  | @entry k d e s t _ hly _ _ ih =>
    obtain ⟨⟨hqueue, hconn'⟩, hevents, hdropped⟩ := ih (by rwa [handOff_connected, lineStep_connected])
    rw [handOff_ly, lineStep_ly] at hevents hdropped
    rw [vblankEntries_succ, if_pos hly, Nat.add_comm, List.replicate_succ, if_neg (Nat.succ_ne_zero _)]
    refine ⟨⟨?_, ?_⟩, ?_, ?_⟩
    · rw [hqueue, handOff_queue, lineStep_queue, lineStep_connected, hconn, if_neg Bool.false_ne_true]
    · rw [hconn', handOff_connected, lineStep_connected]
    · rw [hevents, handOff_events, lineStep_events, lineStep_connected, hconn, if_neg Bool.false_ne_true, List.append_assoc,
        List.singleton_append]
    · rw [hdropped, hconn, Bool.not_false, Bool.or_true, ite_self]

end

/-- Settles O40: the run of line steps can hold at none of them, since the hand-off is always possible without a receiver. -/
theorem advanceWithoutReceiverDropsAndGoesOn : Obligations.AdvanceWithoutReceiverDropsAndGoesOn := by
  intro n s hlcd hhold hly hconn k
  refine ⟨_, exec_adv_enabled n hlcd, ?_⟩
  rcases runLines_outcome false (s.load n) with ⟨e, t, hrun, heq⟩ | ⟨j, e, t, hrun, -, -, hcan, -⟩
  · obtain ⟨⟨hqueue, -⟩, hevents, hdropped⟩ := hrun.drops_of_disconnected hconn
    have hstatus : advStatus e = if k = 0 then .ok else .frameDropped := by
      rw [hdropped]
      exact apply_ite advStatus _ _ _
    rw [heq, ← hstatus]
    exact ⟨hrun.hold_eq.trans hhold, hqueue, hevents, rfl, hrun.finished hly⟩
  · obtain ⟨⟨-, hconn'⟩, -, -⟩ := hrun.drops_of_disconnected hconn
    exact nomatch hcan.symm.trans ((canHandOff_iff t).2 (.inr (hconn'.trans hconn)))

/-! ### The hold at a full channel (R192) -/

/-- The line steps up to the next landing on line 144: the first `k` of them do not land there, and the one after them does. -/
theorem succ_eq_of_first_landing {ly k : Nat} (hly : ly < 154) (hbefore : ¬ LandsOn ly k 144)
    (hland : (ly + (k + 1)) % 154 = 144) : k + 1 = (297 - ly) % 154 + 1 := by
  by_contra hne
  exact hbefore ⟨(297 - ly) % 154, by omega, by omega⟩

/-- Settles O43: the run of line steps ends before the first landing on line 144, and the step onto it holds. -/
theorem advanceHoldsAtAFullChannel : Obligations.AdvanceHoldsAtAFullChannel := by
  intro n s hlcd _ hly hconn hqueue k hk
  have hcan : canHandOff (s.load n) = false := canHandOff_of_full hconn hqueue
  refine ⟨_, exec_adv_enabled n hlcd, ?_⟩
  rcases runLines_outcome false (s.load n) with ⟨e, t, hrun, -⟩ | ⟨j, e, t, hrun, -, hland, -, heq⟩
  · have hlands : LandsOn (s.load n).ly.toNat ((s.load n).clk / 114) 144 := by
      simp only [State.load, k] at hk ⊢
      exact ⟨(297 - s.ly.toNat) % 154, by omega, by omega⟩
    exact absurd hlands (hrun.not_landsOn_of_full hcan)
  · have hbefore := hrun.not_landsOn_of_full hcan
    obtain ⟨rfl, ⟨hqueue', -⟩, hevents, hifl⟩ := hrun.eq_of_not_landsOn hbefore
    obtain ⟨hclk, h144, hline⟩ := hrun.landed hly hland
    have hfirst : j + 1 = k := succ_eq_of_first_landing hly hbefore hline
    rw [heq, ← hfirst]
    refine ⟨rfl, BitVec.eq_of_toNat_eq h144, ?_, hclk, rfl, (lineStep_queue t).trans hqueue',
      (lineStep_events t).trans hevents⟩
    rw [advHold_ifl, lineStep_ifl, if_pos hland, hifl]
    rfl

/-! ### A whole frame (R199) -/

/-- Settles O58: 153 line steps render all 144 rows, and the one after them hands them off. -/
theorem aFrameOfCyclesDeliversTheWholeBackground : Obligations.AFrameOfCyclesDeliversTheWholeBackground := by
  intro s hlcd _ hclk hly hconn hqueue
  have hclk' : (s.load 17556).clk = s.clk + 17556 := rfl
  have hly' : (s.load 17556).ly.toNat = 144 := congrArg BitVec.toNat hly
  have h144 : ¬ LandsOn (s.load 17556).ly.toNat 153 144 := by
    rw [hly']
    rintro ⟨j, hj, hland⟩
    omega
  have hrows {y : Nat} (hy : y < 144) : LandsOn (s.load 17556).ly.toNat 153 y := by
    rw [hly']
    exact ⟨y + 9, by omega, by omega⟩
  obtain ⟨t, hrun, hrendered⟩ := exists_rendered (k := 153) false (by omega) h144
  obtain ⟨-, ⟨hqueue', hconn'⟩, hevents, -⟩ := hrun.eq_of_not_landsOn h144
  have hspent := hrun.clk_add
  have htly : t.ly.toNat = 143 := by rw [hrun.ly_toNat (by omega), hly']
  have hlast := runLines_oneLine_deliver (s := t) false (by omega) (by omega) (by omega) (hconn'.trans hconn)
    (hqueue'.trans hqueue)
  refine ⟨_, t.fb, (exec_adv_enabled _ hlcd).trans (congrArg _ (hrun.runLines_eq.trans hlast)), rfl, ?_, rfl, ?_, ?_, rfl,
    fun x hx y hy c hc => ?_⟩
  · exact congrArg (· ++ [.deliver t.fb]) hevents
  · exact BitVec.eq_of_toNat_eq ((nextLine_toNat _).trans (by rw [htly]; rfl))
  · show t.clk - 114 = s.clk
    omega
  · exact (hrendered.landed x hx y hy c hc (hrows hy)).trans (pixel_congr rfl rfl rfl rfl rfl rfl x y)

/-! ### A lifted ADV goes on (R191, R192, R193) -/

/-- A hand-off that need not hold, with Q empty as its room (D23). -/
theorem handOff_of_room {s : State} (h : (s.connected = true ∧ s.queue = []) ∨ s.connected = false) :
    handOff s = { s with
      queue := if s.connected then [s.fb] else s.queue,
      events := s.events ++ [if s.connected then .deliver s.fb else .drop], fb := [] } := by
  rcases h with ⟨hconn, hqueue⟩ | hconn
  · simp only [handOff_connected_eq hconn, hconn, hqueue, List.nil_append, if_true]
  · simp only [handOff_disconnected_eq hconn, hconn, Bool.false_eq_true, if_false]

/-- In each of its three forms the step lets a lifted ADV proceed, and leaves `rest` of what is presented. -/
theorem step_proceeds {s : State} {rest : List Input} (hhold : s.hold ≠ none) (hcan : canHandOff s = true)
    (hinputs : (s.inputs = [] ∧ rest = []) ∨ s.inputs = .proceed :: rest ∨
      ∃ r q, s.inputs = .request r :: q ∧ s.phase = .run ∧ onDisplayPort r = false ∧ rest = s.inputs) :
    step s = .next (proceed { s with inputs := rest }) := by
  rcases hinputs with ⟨hnil, rfl⟩ | hentry | ⟨r, q, hrequest, hphase, hport, rfl⟩
  · rw [step_idle hnil, ← hnil]
  · exact step_entry_proceed hentry
  · exact step_waiting_request hrequest hphase hport hhold hcan

/-- The status tells of a drop before the loop or in it (R210, D2). -/
theorem advDone_or_resp (d e : Bool) (s : State) :
    (advDone (d || e) s).resp = some (.done
      (if d = true ∨ (advDone e s).resp = some (.done .frameDropped 0) then .frameDropped else .ok) 0) := by
  have hdrop : (d || e) = true ↔ d = true ∨ (advDone e s).resp = some (.done .frameDropped 0) := by
    rw [advDone_resp_frameDropped, Bool.or_eq_true_iff]
  exact congrArg (fun st => some (Resp.done st 0)) (if_congr hdrop rfl rfl)

/-- Settles O45: after its own hand-off the lifted ADV is the loop of ADV from the same state, started with its `dropped`. -/
theorem liftedAdvanceGoesOnWithTheCyclesLeft : Obligations.LiftedAdvanceGoesOnWithTheCyclesLeft := by
  intro s h rest hhold hlcd hinputs hroom s1 dropped
  have hcan : canHandOff s = true := (canHandOff_iff s).2 (hroom.imp_left And.right)
  have hstep : step s = .next (runLines dropped s1) := by
    rw [step_proceeds (hhold ▸ Option.some_ne_none h) hcan hinputs, proceed_lifted (s := { s with inputs := rest }) hhold hcan,
      handOff_of_room (s := { s with hold := none, inputs := rest }) hroom]
  have hadv : exec (.adv s.clk) { s1 with clk := 0 } = .next (runLines false s1) := by
    rw [exec_adv_enabled (s := { s1 with clk := 0 }) s.clk hlcd]
    simp only [State.load, Nat.zero_add, s1]
  refine ⟨fun hclk => ?_, _, _, hstep, hadv, ?_⟩
  · rw [hstep, runLines_done dropped (s := s1) hclk]
    rfl
  · rcases runLines_dropped dropped false s1 with ⟨e, t, hu, ht⟩ | ⟨e, t, hu, ht⟩ <;> rw [Bool.or_false] at ht
    · have hnone : t.hold = none := hold_of_runLines_done hu
      rw [hu, ht]
      exact ⟨rfl, fun _ => ⟨hnone, advDone_or_resp dropped e t⟩, fun h' hh => nomatch hnone.symm.trans hh⟩
    · rw [hu, ht]
      refine ⟨rfl, nofun, fun h' hh => ⟨rfl, ?_⟩⟩
      obtain rfl : (⟨e⟩ : HeldAdv) = h' := Option.some.inj hh
      rfl

end Sys2Proof.Machine

/-! ## Proofs: statuses and exceptions (60_exceptions.md) -/

namespace Sys2Proof.Machine

/-! ### No operation stops (R205, R225) -/

/-- A register access that is run by itself answers a next state. -/
theorem regAccess_next (d : DispReg) (acc : ByteAccess) (s : State) : Runs (regAccess d acc s) := by
  cases acc <;> exact ⟨_, rfl⟩

/-- RDW answers what one of its two byte reads leaves (R112). -/
theorem exec_rdw_next (a : Addr) (s : State) : Runs (exec (.rdw a) s) := by
  obtain ⟨t, -, ⟨e, -, h⟩ | ⟨st0, d0, -, u, -, ⟨e, -, h⟩ | ⟨st1, d1, -, h⟩⟩⟩ := wordReadIsTwoByteReads a s
  all_goals exact ⟨_, h⟩

/-- WRW answers what one of its two byte writes leaves (R113). -/
theorem exec_wrw_next (a : Addr) (w : Half) (s : State) : Runs (exec (.wrw a w) s) := by
  obtain ⟨t, -, ⟨e, -, h⟩ | ⟨st0, -, u, -, ⟨e, -, h⟩ | ⟨st1, -, h⟩⟩⟩ := wordWriteIsTwoByteWrites a w s
  all_goals exact ⟨_, h⟩

/-- ADV answers at once with the display off, and otherwise what its loop leaves, a hold as well (R160, R192). -/
theorem exec_adv_next (n : Nat) (s : State) : Runs (exec (.adv n) s) := by
  cases hlcd : s.lcdc.getLsbD 7 with
  | true => exact ⟨_, execAdv_enabled n hlcd⟩
  | false => exact ⟨_, execAdv_disabled n hlcd⟩

/-- TAKE answers CLOSED, EMPTY or a frame (R195). -/
theorem exec_take_next (s : State) : Runs (exec .take s) := by
  cases hconn : s.connected with
  | false => exact ⟨_, exec_take_disconnected hconn⟩
  | true =>
    cases hqueue : s.queue with
    | nil => exact ⟨_, exec_take_empty hconn hqueue⟩
    | cons f q => exact ⟨_, exec_take_frame hconn hqueue⟩

/-- DISC answers DONE or CLOSED (R196). -/
theorem exec_disc_next (s : State) : Runs (exec .disc s) := by
  cases hconn : s.connected with
  | true => exact ⟨_, exec_disc_connected hconn⟩
  | false => exact ⟨_, exec_disc_disconnected hconn⟩

/-- Settles O53, by the operations: an erring access, a dropped frame, a hold and a closed channel are all next states. -/
theorem everyOperationAnswersANextState : Obligations.EveryOperationAnswersANextState := by
  intro i s
  cases i with
  | rdb a => exact ⟨_, exec_rdb a s⟩
  | wrb a v => exact ⟨_, exec_wrb a v s⟩
  | rdw a => exact exec_rdw_next a s
  | wrw a w => exact exec_wrw_next a w s
  | adv n => exact exec_adv_next n s
  | ifr => exact ⟨_, exec_ifr s⟩
  | ifw v => exact ⟨_, exec_ifw v s⟩
  | reservedOp7 => exact ⟨_, exec_reservedOp7 s⟩
  | take => exact exec_take_next s
  | disc => exact exec_disc_next s
  | rom0000 _ _ | vram8000 _ _ | cramA000 _ _ | wramC000 _ _ | wramE000 _ _ | wramF000 _ _ | wramF800 _ _ | wramFC00 _ _
  | oamFE00 _ _ | oamFE80 _ _ | unmappedFEA0 _ _ | unmappedFEC0 _ _ | unmappedFF00 _ | serialFF01 _ | serialFF02 _
  | unmappedFF03 _ | unmappedFF04 _ _ | unmappedFF08 _ _ | unmappedFF10 _ _ | unmappedFF20 _ _ | displayFF40 _ _
  | displayFF48 _ _ | unmappedFF4C _ _ | unmappedFF50 _ _ | unmappedFF60 _ _ | zramFF80 _ _ =>
    exact regionAccess_next _ _ _ s
  | regFF40 _ | regFF41 _ | regFF42 _ | regFF43 _ | regFF44 _ | regFF45 _ | regFF46 _ | regFF47 _ | regFF48 _ | regFF49 _
  | regFF4A _ | regFF4B _ => exact regAccess_next _ _ s

end Sys2Proof.Machine

/-! ## Proofs: reset (70_reset_and_hazards.md) -/

namespace Sys2Proof.Machine

/-- A presented reset is taken before PHASE and the hold are looked at, so it may come in any state (R234). -/
theorem fetch_reset {s : State} {source : Option (List Byte)} {serial : SerialKind} {rest : List Input}
    (hinputs : s.inputs = .reset source serial :: rest) : fetch s = .quiet (resetOver source serial rest) := by
  simp only [fetch, hinputs]

/-- Settles O8: the step is the quiet one that the reset is fetched as. -/
theorem nothingSurvivesReset : Obligations.NothingSurvivesReset := by
  intro s source serial rest hinputs
  simp only [step, fetch_reset hinputs]

end Sys2Proof.Machine
